-- ==== Sys2Proof/Word.lean ====
section
/-! DEFINITION. The word types of the block (spec 00_scope.md R15, R17; 10_state.md R34): a register is 32 bits,
a buffer element and a palette channel are 8 bits (the spec's u8), and a real number is a binary64 value held as
its 64 bits. The arithmetic on binary64 is in Machine/Float.lean. -/

namespace Sys2Proof

/-- A register or bus word (R34: "Every register is 32 bits"). -/
abbrev Word := BitVec 32

/-- The spec's u8 (R16): the integers 0..255. -/
abbrev Byte := BitVec 8

/-- A binary64 value as its bits (R17): bit 63 the sign, bits 62..52 the exponent, bits 51..0 the fraction. -/
abbrev F64 := BitVec 64

end Sys2Proof
end

