-- ==== Sys2Proof/Syntax.lean ====
section
/-! DEFINITION. The syntax of everything the block decodes or is sent: the commands and style codes of the opcode
table (30_encoding.md R121, R122, R130), the two encoded quantities (R120), the register names of the window
(10_state.md R34), and the items of a host script (30_encoding.md R140, 10_state.md R85, 70_reset_and_hazards.md
R440). -/

namespace Sys2Proof

/-- One constructor per row of spec/opcode_table.json. The first fifteen are command words (format CMD), the others
style codes (format STYLE), which the dither stage dispatches on (43_dither_dispatch.md R252). The two catch-all
rows carry the word or the code they catch. -/
inductive Instr where
  | nop                              -- R170
  | runFrame                         -- R171
  | buildLut                         -- R224
  | sample                           -- R200
  | tonemap                          -- R225
  | dither                           -- R259
  | depth                            -- R340
  | palette                          -- R350
  | upscale                          -- R370
  | dumpIbuf                         -- R173
  | dumpTbuf                         -- R174
  | dumpMbuf                         -- R175
  | dumpDbuf                         -- R176
  | dumpCbuf                         -- R177
  | illegalCmd (w : Word)            -- R123: every other command word
  | edFloydSteinberg                 -- R273
  | edAtkinson                       -- R274
  | edJjn                            -- R275
  | edStucki                         -- R276
  | edBurkes                         -- R277
  | edSierra                         -- R278
  | edSierra2                        -- R279
  | edSierraLite                     -- R280
  | ordBayer                         -- R302
  | ordKnoll                         -- R304
  | linesH                           -- R306
  | linesV                           -- R307
  | linesD                           -- R308
  | noiseBlue                        -- R310
  | noiseWhite                       -- R311
  | noiseStipple                     -- R312
  | noiseVoronoi                     -- R313
  | waveSinX                         -- R315
  | waveSinY                         -- R316
  | waveSinR                         -- R317
  | waveSqrX                         -- R318
  | waveSqrY                         -- R319
  | waveSqrR                         -- R320
  | patChecker                       -- R322
  | patGrid                          -- R323
  | patRandom                        -- R324
  | patGradient                      -- R325
  | vcOstromoukhov                   -- R283
  | sfcRiemersma                     -- R285
  | passthrough (code : Byte)        -- R253: every other style code
deriving DecidableEq, Repr

/-- The two quantities the block decodes (R120): a 32-bit command word and an 8-bit style code. -/
inductive Encoded where
  | cmd (w : Word)
  | style (c : Byte)
deriving DecidableEq, Repr

/-- The named registers of the window (R34). -/
inductive Reg where
  | id | version | caps0 | caps1 | cmd | status | irqEn | errCode | errAddr | ctrl | bufValid | workDim
  | latSrcDim | latScale | srcBase | srcDim | dstBase | scale | contrast | midtone | highlight | thresh | invert
  | style | msize | pscale | bleed | depth | rngSeed | palCount
  | pal (k : Fin 16)
  | lutWin (j : Fin 64)
deriving DecidableEq, Repr

/-- One item of what the world outside the block does, in order. Register accesses name an offset in the window and
a width in bytes, because the port refuses some of them (R85). `pass` and `waitIdle` let the engine go on: they are
the schedule between the agents (R461), held as data. -/
inductive HostItem where
  /-- A write of `v` at an offset of the window, `nbytes` wide (`WR`, R140). -/
  | write (off : BitVec 12) (nbytes : Nat) (v : Word)
  /-- A read at an offset of the window, `nbytes` wide (`RD`, R140). -/
  | read (off : BitVec 12) (nbytes : Nat)
  /-- Another agent writes one byte of frame memory (20_memory.md R90, R106). -/
  | memWrite (a : Word) (b : Byte)
  /-- Another agent reads one byte of frame memory (R90, R106). -/
  | memRead (a : Word)
  /-- The pseudo-instruction WAITIDLE (R142): read STATUS again and again until BUSY reads 0. -/
  | waitIdle
  /-- The engine passes one landing point before the next item lands (R461: "any finite number of steps"). -/
  | pass
  /-- The platform asserts reset (R440, R442): `n` more frame-memory writes of the row in progress have been
  performed, and `torn` says which bytes of the one in flight hold their new value (R101). -/
  | resetOn (n : Nat) (torn : BitVec 4)
  /-- The platform releases reset (R440). -/
  | resetOff
deriving DecidableEq, Repr

end Sys2Proof
end

