-- ==== Sys2Proof/WellFormed.lean ====
section
/-! DEFINITION. Which instructions are well formed: the two catch-all rows may carry only what no other row takes.
The conditions are those of 30_encoding.md R123 (illegal command words) and R132 (unassigned style codes), written
on numbers and without the decoder, so that the round trip of Decode.lean says something. -/

namespace Sys2Proof

/-- R123: OP ≥ 0xA; RSV ≠ 0; OP ≠ 0x9 and SEL ≠ 0; OP = 0x9 and SEL ≥ 5. OP is bits 3..0, SEL bits 6..4 and RSV
bits 31..7. -/
def illegalWord (w : Word) : Bool :=
  decide (10 ≤ w.toNat % 16) || decide (w.toNat / 128 ≠ 0)
    || (decide (w.toNat % 16 ≠ 9) && decide (w.toNat / 16 % 8 ≠ 0))
    || (decide (w.toNat % 16 = 9) && decide (5 ≤ w.toNat / 16 % 8))

/-- Whether `n` lies in lo..hi. -/
def within (lo hi n : Nat) : Bool := decide (lo ≤ n) && decide (n ≤ hi)

/-- R132, the list of unassigned style codes. -/
def unassignedCode (c : Byte) : Bool :=
  within 0x00 0x0F c.toNat || within 0x18 0x1F c.toNat || within 0x22 0x2F c.toNat || within 0x33 0x3F c.toNat
    || within 0x44 0x4F c.toNat || within 0x53 0x53 c.toNat || within 0x57 0x5F c.toNat || within 0x64 0x6F c.toNat
    || within 0x71 0x7F c.toNat || within 0x81 0xFF c.toNat

/-- Whether an instruction is one the block can meet: a catch-all row carries only what it catches. -/
def Instr.wellFormed : Instr → Bool
  | .illegalCmd w => illegalWord w
  | .passthrough c => unassignedCode c
  | .nop | .runFrame | .buildLut | .sample | .tonemap | .dither | .depth | .palette | .upscale => true
  | .dumpIbuf | .dumpTbuf | .dumpMbuf | .dumpDbuf | .dumpCbuf => true
  | .edFloydSteinberg | .edAtkinson | .edJjn | .edStucki | .edBurkes | .edSierra | .edSierra2 | .edSierraLite => true
  | .ordBayer | .ordKnoll | .linesH | .linesV | .linesD => true
  | .noiseBlue | .noiseWhite | .noiseStipple | .noiseVoronoi => true
  | .waveSinX | .waveSinY | .waveSinR | .waveSqrX | .waveSqrY | .waveSqrR => true
  | .patChecker | .patGrid | .patRandom | .patGradient | .vcOstromoukhov | .sfcRiemersma => true

end Sys2Proof
end

