-- ==== Sys2Proof/Decode.lean ====
section
/-! DEFINITION. The decoder of the two encoded quantities (30_encoding.md R120 to R132), total: a word or code
outside the tables decodes to the catch-all row that names it. After it the encoder, from the same tables. -/

namespace Sys2Proof

/-- CMD.OP, bits [3:0] (R120). -/
def cmdOp (w : Word) : BitVec 4 := w.extractLsb' 0 4

/-- CMD.SEL, bits [6:4] (R120). -/
def cmdSel (w : Word) : BitVec 3 := w.extractLsb' 4 3

/-- CMD.RSV, bits [31:7] (R120). -/
def cmdRsv (w : Word) : BitVec 25 := w.extractLsb' 7 25

/-- The DUMP selectors of R122; 5 to 7 are reserved. -/
def decodeDump (w : Word) : Instr :=
  match (cmdSel w).toNat with
  | 0 => .dumpIbuf
  | 1 => .dumpTbuf
  | 2 => .dumpMbuf
  | 3 => .dumpDbuf
  | 4 => .dumpCbuf
  | _ => .illegalCmd w

/-- The opcodes of R121 whose SEL is 0. -/
def decodeOp (w : Word) : Instr :=
  match (cmdOp w).toNat with
  | 0 => .nop
  | 1 => .runFrame
  | 2 => .buildLut
  | 3 => .sample
  | 4 => .tonemap
  | 5 => .dither
  | 6 => .depth
  | 7 => .palette
  | 8 => .upscale
  | _ => .illegalCmd w

/-- `decode_cmd` of R124, in its order. -/
def decodeCmd (w : Word) : Instr :=
  if cmdRsv w ≠ 0 ∨ 10 ≤ (cmdOp w).toNat then .illegalCmd w
  else if cmdOp w = 9 then decodeDump w
  else if cmdSel w ≠ 0 then .illegalCmd w
  else decodeOp w

/-- The style codes of R130; every other code is the passthrough (R132). -/
def decodeStyle (c : Byte) : Instr :=
  match c.toNat with
  | 0x10 => .edFloydSteinberg
  | 0x11 => .edAtkinson
  | 0x12 => .edJjn
  | 0x13 => .edStucki
  | 0x14 => .edBurkes
  | 0x15 => .edSierra
  | 0x16 => .edSierra2
  | 0x17 => .edSierraLite
  | 0x20 => .ordBayer
  | 0x21 => .ordKnoll
  | 0x30 => .linesH
  | 0x31 => .linesV
  | 0x32 => .linesD
  | 0x40 => .noiseBlue
  | 0x41 => .noiseWhite
  | 0x42 => .noiseStipple
  | 0x43 => .noiseVoronoi
  | 0x50 => .waveSinX
  | 0x51 => .waveSinY
  | 0x52 => .waveSinR
  | 0x54 => .waveSqrX
  | 0x55 => .waveSqrY
  | 0x56 => .waveSqrR
  | 0x60 => .patChecker
  | 0x61 => .patGrid
  | 0x62 => .patRandom
  | 0x63 => .patGradient
  | 0x70 => .vcOstromoukhov
  | 0x80 => .sfcRiemersma
  | _ => .passthrough c

/-- The decoder of both quantities. -/
def decode : Encoded → Instr
  | .cmd w => decodeCmd w
  | .style c => decodeStyle c

/-- The command word of R121 and R122, or the style code of R130, of an instruction. -/
def encode : Instr → Encoded
  | .nop => .cmd 0x00
  | .runFrame => .cmd 0x01
  | .buildLut => .cmd 0x02
  | .sample => .cmd 0x03
  | .tonemap => .cmd 0x04
  | .dither => .cmd 0x05
  | .depth => .cmd 0x06
  | .palette => .cmd 0x07
  | .upscale => .cmd 0x08
  | .dumpIbuf => .cmd 0x09
  | .dumpTbuf => .cmd 0x19
  | .dumpMbuf => .cmd 0x29
  | .dumpDbuf => .cmd 0x39
  | .dumpCbuf => .cmd 0x49
  | .illegalCmd w => .cmd w
  | .edFloydSteinberg => .style 0x10
  | .edAtkinson => .style 0x11
  | .edJjn => .style 0x12
  | .edStucki => .style 0x13
  | .edBurkes => .style 0x14
  | .edSierra => .style 0x15
  | .edSierra2 => .style 0x16
  | .edSierraLite => .style 0x17
  | .ordBayer => .style 0x20
  | .ordKnoll => .style 0x21
  | .linesH => .style 0x30
  | .linesV => .style 0x31
  | .linesD => .style 0x32
  | .noiseBlue => .style 0x40
  | .noiseWhite => .style 0x41
  | .noiseStipple => .style 0x42
  | .noiseVoronoi => .style 0x43
  | .waveSinX => .style 0x50
  | .waveSinY => .style 0x51
  | .waveSinR => .style 0x52
  | .waveSqrX => .style 0x54
  | .waveSqrY => .style 0x55
  | .waveSqrR => .style 0x56
  | .patChecker => .style 0x60
  | .patGrid => .style 0x61
  | .patRandom => .style 0x62
  | .patGradient => .style 0x63
  | .vcOstromoukhov => .style 0x70
  | .sfcRiemersma => .style 0x80
  | .passthrough c => .style c

/-- The instruction the decoder reads from a row of the opcode table: a row of 32 bits is a command word, a row of
8 bits a style code; the table has no other width. -/
def decodeTableWord (nbits w : Nat) : Option Instr :=
  if nbits = 32 ∧ w < 4294967296 then some (decode (.cmd (BitVec.ofNat 32 w)))
  else if nbits = 8 ∧ w < 256 then some (decode (.style (BitVec.ofNat 8 w)))
  else none

end Sys2Proof
end

