-- ==== Sys2Proof/Config.lean ====
section
/-! DEFINITION. What the platform or the implementation fixes, and the free values (00_scope.md R13;
93_implementation_defined.md U1, U6 to U10, U12, U13, U20 to U23). Every opaque constant stands for every value of
its type: nothing can be proved of the value. The two parameters whose default the spec gives, KERNEL_TABLE and
KNOLL4, are in Machine/Tables.lean. -/

namespace Sys2Proof

/-- The two kinds of frame-memory access (20_memory.md R91). -/
inductive AccessKind where
  | read | write
deriving DecidableEq, Repr

/-- A range of frame memory: `len` bytes from `base`. -/
structure Region where
  base : Nat
  len : Nat
deriving DecidableEq, Repr

/-- One entry of the memory port's refusals (U12): accesses of `size` bytes and kind `kind` at an address in
`region` are refused. A list of these can say any oracle `BUS_REFUSES(addr, size, kind)`. -/
structure BusRule where
  region : Region
  size : Nat
  kind : AccessKind
deriving DecidableEq, Repr

namespace Config

/-- MAX_WW less one (U20): MAX_WW is any integer 1..65535. -/
opaque maxWWLess1 : Fin 65535

/-- MAX_WH less one (U20). -/
opaque maxWHLess1 : Fin 65535

/-- REG_BASE (U21), the platform's address of the register window. -/
opaque regBase : Nat

/-- SIN64 (R13, R17, U22): the datapath's sine, any total function. -/
opaque sin64 : F64 → F64

/-- SERP_DAMP (R13, R285, U23): the damping factor of the serpentine diffuser. -/
opaque serpDamp : F64

/-- BUS_REFUSES (R410, U12): where the memory port refuses an access. -/
opaque busRules : List BusRule

/-- Which regions of frame memory are device registers and not ordinary memory (R98, U13). -/
opaque devices : List Region

/-- A fresh 32-bit free value (U6: LUT_WIN read while busy). -/
opaque freeWord : Nat → Word

/-- A fresh free choice (U7 to U10); who draws it takes it modulo the number of admitted values. -/
opaque freeNat : Nat → Nat

/-- What the LUT RAM holds after a reset (U1: any value). -/
opaque lutPowerOn : Nat → Vector Byte 256

end Config

end Sys2Proof
end

