-- ==== Sys2Proof/Machine/Tables.lean ====
section
/-! DEFINITION. The tables that the platform gives as parameters with a default: KERNEL_TABLE (00_scope.md R13,
44_error_diffusion.md R272, 93 U24) and KNOLL4 (45_threshold_dither.md R303, 93 U25). The state's platform holds the
tables in use (Machine/State.lean); here are their types and their defaults. -/

namespace Sys2Proof.Machine

/-- A tap (dx, dy, weight) of a kernel (R272). The spec bounds only dx and dy (93 U24) and converts the weight, an
integer, by f64 (R270); DESIGN CHOICE, log entry 24: a weight is any integer, of either sign. -/
structure Tap where
  dx : Int
  dy : Nat
  wt : Int
deriving DecidableEq, Repr

/-- A kernel: its divisor and its taps (R272). -/
structure Kernel where
  div : Nat
  taps : List Tap
deriving DecidableEq, Repr

/-- The open part of KERNEL_TABLE: seven tap lists. The Floyd-Steinberg entry and the eight divisors are fixed (U24). -/
structure KernelTable where
  atkinson : List Tap
  jjn : List Tap
  stucki : List Tap
  burkes : List Tap
  sierra : List Tap
  sierra2 : List Tap
  sierraLite : List Tap
deriving DecidableEq, Repr

/-- KNOLL4: four rows of four numbers 0 .. 15. -/
abbrev Knoll := Vector (Vector (Fin 16) 4) 4

/-- The taps of Floyd-Steinberg (R272, R273), which no platform changes. -/
def tapsFloydSteinberg : List Tap := [⟨1, 0, 7⟩, ⟨-1, 1, 3⟩, ⟨0, 1, 5⟩, ⟨1, 1, 1⟩]

/-- KERNEL_TABLE at its default (R272). -/
def kernelDefault : KernelTable where
  atkinson := [⟨1, 0, 1⟩, ⟨2, 0, 1⟩, ⟨-1, 1, 1⟩, ⟨0, 1, 1⟩, ⟨1, 1, 1⟩, ⟨0, 2, 1⟩]
  jjn :=
    [⟨1, 0, 7⟩, ⟨2, 0, 5⟩, ⟨-2, 1, 3⟩, ⟨-1, 1, 5⟩, ⟨0, 1, 7⟩, ⟨1, 1, 5⟩, ⟨2, 1, 3⟩, ⟨-2, 2, 1⟩, ⟨-1, 2, 3⟩,
      ⟨0, 2, 5⟩, ⟨1, 2, 3⟩, ⟨2, 2, 1⟩]
  stucki :=
    [⟨1, 0, 8⟩, ⟨2, 0, 4⟩, ⟨-2, 1, 2⟩, ⟨-1, 1, 4⟩, ⟨0, 1, 8⟩, ⟨1, 1, 4⟩, ⟨2, 1, 2⟩, ⟨-2, 2, 1⟩, ⟨-1, 2, 2⟩,
      ⟨0, 2, 4⟩, ⟨1, 2, 2⟩, ⟨2, 2, 1⟩]
  burkes := [⟨1, 0, 8⟩, ⟨2, 0, 4⟩, ⟨-2, 1, 2⟩, ⟨-1, 1, 4⟩, ⟨0, 1, 8⟩, ⟨1, 1, 4⟩, ⟨2, 1, 2⟩]
  sierra :=
    [⟨1, 0, 5⟩, ⟨2, 0, 3⟩, ⟨-2, 1, 2⟩, ⟨-1, 1, 4⟩, ⟨0, 1, 5⟩, ⟨1, 1, 4⟩, ⟨2, 1, 2⟩, ⟨-1, 2, 2⟩, ⟨0, 2, 3⟩,
      ⟨1, 2, 2⟩]
  sierra2 := [⟨1, 0, 4⟩, ⟨2, 0, 3⟩, ⟨-2, 1, 1⟩, ⟨-1, 1, 2⟩, ⟨0, 1, 3⟩, ⟨1, 1, 2⟩, ⟨2, 1, 1⟩]
  sierraLite := [⟨1, 0, 2⟩, ⟨-1, 1, 1⟩, ⟨0, 1, 1⟩]

/-- KNOLL4 at its default (R303). -/
def knollDefault : Knoll := #v[#v[12, 5, 6, 13], #v[4, 0, 1, 7], #v[11, 3, 2, 8], #v[15, 10, 9, 14]]

end Sys2Proof.Machine
end

