-- ==== Sys2Proof/Machine/State.lean ====
section
/-! DEFINITION. The state of the block (10_state.md), as plain data, and the state after reset
(70_reset_and_hazards.md R441). Fields that the spec names cite its rule; the fields of the model's own (the host's
script and the port's answers, the record of races, the draw counter, the values before the running command) say
so. -/

namespace Sys2Proof.Machine

/-- Why a step stops with a fault. -/
inductive Fault where
  /-- Raised by the engine's memory port (Machine/Ops.lean) for an access beyond address 0xFFFFFFFF, which does not
  exist (20_memory.md R90). Every command checks its region first (R406), so no run from reset meets it. Safe: the
  model stops. -/
  | outsideFrameMemory
deriving DecidableEq, Repr

/-- Why a step is refused. -/
inductive Refusal where
  /-- Raised by an arm of exec whose instruction has no meaning yet. Safe: the model stops. -/
  | notModelled (mnemonic : String)
  /-- Raised by a command whose source or destination region meets a device region of the platform: "a model has no
  meaning for it and must refuse such a launch" (20_memory.md R98). Safe: the model stops. -/
  | deviceRegion
deriving DecidableEq, Repr

/-- The error codes of 60_exceptions.md R401, without NONE. -/
inductive ErrKind where
  | illegalCmd | seq | cfgScale | cfgDim | cfgRange | cfgContrast | cfgPscale | cfgPalette | bus
deriving DecidableEq, Repr

/-- The tone tuple K (42_tone_curve_lut.md; 10_state.md R60 to R64): the five tone registers, or LUT_KEY (R81). -/
structure Tone where
  contrast : BitVec 16
  midtone : BitVec 16
  highlight : BitVec 16
  thresh : BitVec 8
  invert : Bool
deriving DecidableEq, Repr

/-- The configuration registers (R56 to R72) and CTRL.RNG_FREE (R51): exactly what SNAP copies (R79). A register
narrower than 32 bits is held at its own width; its reserved bits read 0. -/
structure Cfg where
  srcBase : Word
  srcDim : Word
  dstBase : Word
  scale : BitVec 16
  tone : Tone
  style : Byte
  msize : Byte
  pscale : BitVec 16
  bleed : BitVec 16
  depth : BitVec 16
  rngSeed : Word
  palCount : Byte
  pal : Vector (BitVec 24) 16
  rngFree : Bool
deriving DecidableEq, Repr

/-- The bits of STATUS the engine or the host changes (R40 to R47). BUSY is not here: it is the phase (R33, R41). -/
structure Status where
  done : Bool
  err : Bool
  preempt : Bool
  pending : Bool
  styleUnk : Bool
  msizeFb : Bool
deriving DecidableEq, Repr

/-- IRQ_EN (R48). -/
structure IrqEn where
  doneIe : Bool
  errIe : Bool
  preemptIe : Bool
deriving DecidableEq, Repr

/-- The error report: ERR_CODE.CODE and ERR_CODE.OP (R49), ERR_ADDR (R50). -/
structure Report where
  code : Byte
  op : BitVec 4
  addr : Word
deriving DecidableEq, Repr

/-- The valid bits of the working buffers (R52, R77). -/
structure Valid where
  ibuf : Bool
  tbuf : Bool
  mbuf : Bool
  dbuf : Bool
  cbuf : Bool
deriving DecidableEq, Repr

/-- What a SAMPLE stage latches: WORK_DIM (R53), LAT_SRC_DIM (R54), LAT_SCALE (R55). -/
structure Dims where
  work : Word
  src : Word
  scale : BitVec 16
deriving DecidableEq, Repr

/-- The LUT RAM (R74) with LUT_BUILT and LUT_KEY (R81). -/
structure Lut where
  ram : Vector Byte 256
  built : Bool
  key : Tone
deriving DecidableEq, Repr

/-- One element of CBUF (R76). -/
structure Rgb where
  r : Byte
  g : Byte
  b : Byte
deriving DecidableEq, Repr

/-- The working buffers (R76), each as its rows from the top; a stage appends the rows it completes. -/
structure Bufs where
  ibuf : List (List Byte)
  tbuf : List (List Byte)
  mbuf : List (List Byte)
  dbuf : List (List Byte)
  cbuf : List (List Rgb)
deriving DecidableEq, Repr

/-- ACC and SERP_E (R83). "They exist only while a dither stage of the error-diffusion families runs": `acc` is
empty and `serpE` absent at every other time. -/
structure Diffuser where
  acc : List (List F64)
  serpE : Option F64
deriving DecidableEq, Repr

/-- The stage a running command is in (R84). `start` is before any stage, `dump` a DUMP. -/
inductive Stage where
  | start | sample | tonemap | dither | depth | palette | upscale | dump
deriving DecidableEq, Repr

/-- The engine's phase (R33) with its progress (R84). `fetch w` is a command word on its way into acceptance (R160,
R169); `run w stage row` is a command running. BUSY is 1 in both (R41, R169). -/
inductive Phase where
  | idle
  | fetch (w : Word)
  | run (w : Word) (stage : Stage) (row : Nat)
deriving DecidableEq, Repr

/-- Frame memory (20_memory.md R90): address and byte pairs in one canonical form (Machine/Ops.lean). -/
abbrev Memory := List Host.Cell

/-- The platform's parameters (00_scope.md R13, 93 U12, U13, U20, U23 to U25), held as constants that no step writes. -/
structure Platform where
  maxWW : BitVec 16
  maxWH : BitVec 16
  serpDamp : F64
  /-- KERNEL_TABLE (44_error_diffusion.md R272). -/
  kernels : KernelTable
  /-- KNOLL4 (45_threshold_dither.md R303). -/
  knoll4 : Knoll
  busRules : List BusRule
  devices : List Region
deriving DecidableEq, Repr

/-- An answer of a port, the model's own record of what a host sees. -/
inductive PortResp where
  /-- The word a register read returns. -/
  | data (v : Word)
  /-- The error response to a bad access (R85). -/
  | error
  /-- The byte a frame-memory read returns. -/
  | byte (b : Byte)
deriving DecidableEq, Repr

/-- A byte the running command has written: its address, the value it held before and the command's value. -/
structure Written where
  addr : Nat
  old : Byte
  new : Byte
deriving DecidableEq, Repr

/-- The model's own record for the races of 20_memory.md R106 while a command runs. `touched` lists, for every byte
another agent wrote during the command, the value it held and the values it was given; `wrote` lists the bytes the
command wrote. -/
structure Race where
  touched : List Host.Cell
  wrote : List Written
deriving DecidableEq, Repr

/-- The whole state. -/
structure State where
  /-- The live configuration registers. -/
  cfg : Cfg
  /-- SNAP (R79). -/
  snap : Cfg
  /-- STATUS less BUSY (R40). -/
  status : Status
  /-- IRQ_EN (R48). -/
  irqEn : IrqEn
  /-- ERR_CODE and ERR_ADDR (R49, R50). -/
  report : Report
  /-- BUF_VALID bits 0 to 4 (R52). -/
  valid : Valid
  /-- WORK_DIM, LAT_SRC_DIM, LAT_SCALE (R53 to R55). -/
  dims : Dims
  /-- The model's own: `dims` as it was before the running command, which a read while busy may return (R88). -/
  dimsBefore : Dims
  /-- LUT RAM, LUT_BUILT, LUT_KEY (R74, R81). -/
  lut : Lut
  /-- IBUF, TBUF, MBUF, DBUF, CBUF (R76). -/
  bufs : Bufs
  /-- RNG_STATE (R82). -/
  rngState : Word
  /-- ACC and SERP_E (R83). -/
  diff : Diffuser
  /-- The phase and the progress (R33, R84). -/
  phase : Phase
  /-- PEND_CMD (R80); its flag is STATUS.PENDING. -/
  pendCmd : Word
  /-- Frame memory (R90), outside the block. -/
  mem : Memory
  /-- The parameters of R13. -/
  plat : Platform
  /-- Whether the platform holds reset asserted (R440). -/
  inReset : Bool
  /-- The model's own: what the world outside the block does next. -/
  script : List HostItem
  /-- The model's own: what the ports have answered, the newest first. -/
  portLog : List PortResp
  /-- The model's own: the record of races (R106). -/
  race : Race
  /-- The model's own: how many free values have been drawn. -/
  free : Nat
deriving DecidableEq, Repr

/-- The neutral tone tuple (R222), the reset value of the tone registers (R441). -/
def Tone.reset : Tone := ⟨0, 50, 50, 128, false⟩

/-- The reset values of the configuration registers (R441, R34). -/
def Cfg.reset : Cfg where
  srcBase := 0
  srcDim := 0
  dstBase := 0
  scale := 1
  tone := Tone.reset
  style := 0x10
  msize := 4
  pscale := 4
  bleed := 0x0100
  depth := 0
  rngSeed := 1
  palCount := 2
  pal := (Vector.replicate 16 0).set 1 0xFFFFFF
  rngFree := false

/-- Every valid bit 0. -/
def Valid.none : Valid := ⟨false, false, false, false, false⟩

/-- The parameters of this platform: any values (Config.lean), and the tables at the defaults the spec gives them
(log entry 24). -/
def Platform.any : Platform where
  maxWW := BitVec.ofNat 16 (Config.maxWWLess1.val + 1)
  maxWH := BitVec.ofNat 16 (Config.maxWHLess1.val + 1)
  serpDamp := Config.serpDamp
  kernels := kernelDefault
  knoll4 := knollDefault
  busRules := Config.busRules
  devices := Config.devices

/-- The state after reset (R441), with nothing placed in frame memory and no host access to come. Values the spec
calls unspecified are those of assumption log entries 1 to 5. -/
def State.reset : State where
  cfg := Cfg.reset
  snap := Cfg.reset
  status := ⟨false, false, false, false, false, false⟩
  irqEn := ⟨false, false, false⟩
  report := ⟨0, 0, 0⟩
  valid := Valid.none
  dims := ⟨0, 0, 0⟩
  dimsBefore := ⟨0, 0, 0⟩
  lut := ⟨Config.lutPowerOn 0, false, ⟨0, 0, 0, 0, false⟩⟩
  bufs := ⟨[], [], [], [], []⟩
  rngState := 1
  diff := ⟨[], none⟩
  phase := .idle
  pendCmd := 0
  mem := []
  plat := Platform.any
  inReset := false
  script := []
  portLog := []
  race := ⟨[], []⟩
  free := 1

end Sys2Proof.Machine
end

