-- ==== Sys2Proof/Machine/Flags.lean ====
section
/-! DEFINITION. The flags: STATUS and its bits (10_state.md R40 to R47), the interrupt line (60_exceptions.md R420),
BUF_VALID (R52), IRQ_EN (R48), ERR_CODE (R49) and the error codes (R401), as register words. -/

namespace Sys2Proof.Machine

/-- A register word from its bits, bit 0 first; the bits above read 0 (R86). -/
def wordOfBits : List Bool → Nat
  | [] => 0
  | b :: bs => b.toNat + 2 * wordOfBits bs

/-- STATUS.BUSY (R41): 1 exactly while the engine is RUNNING. A command word on its way into acceptance counts:
BUSY stays 1 throughout when a pending word is accepted (R169). -/
def busy (s : State) : Bool := decide (s.phase ≠ .idle)

/-- STATUS as it reads (R40). -/
def statusWord (s : State) : Word :=
  BitVec.ofNat 32 (wordOfBits [busy s, s.status.done, s.status.err, s.status.preempt, s.status.pending,
    s.status.styleUnk, s.status.msizeFb])

/-- A host write of STATUS (R40): a 1 in bit 1, 2 or 3 clears DONE, ERR or PREEMPT; nothing else changes. -/
def clearStatus (v : Word) (st : Status) : Status :=
  { st with
    done := st.done && !v.getLsbD 1
    err := st.err && !v.getLsbD 2
    preempt := st.preempt && !v.getLsbD 3 }

/-- `irq` (R420): the level of the interrupt line. -/
def irq (s : State) : Bool :=
  (s.status.done && s.irqEn.doneIe) || (s.status.err && s.irqEn.errIe) || (s.status.preempt && s.irqEn.preemptIe)

/-- BUF_VALID.LUT_V (R52), computed from the live tone registers. -/
def lutValid (s : State) : Bool := s.lut.built && decide (s.lut.key = s.cfg.tone)

/-- BUF_VALID as it reads (R52). -/
def bufValidWord (s : State) : Word :=
  BitVec.ofNat 32 (wordOfBits [s.valid.ibuf, s.valid.tbuf, s.valid.mbuf, s.valid.dbuf, s.valid.cbuf, lutValid s])

/-- IRQ_EN as it reads (R48). -/
def irqEnWord (e : IrqEn) : Word := BitVec.ofNat 32 (wordOfBits [e.doneIe, e.errIe, e.preemptIe])

/-- IRQ_EN as a write sets it (R48). -/
def irqEnOf (v : Word) : IrqEn := ⟨v.getLsbD 0, v.getLsbD 1, v.getLsbD 2⟩

/-- ERR_CODE as it reads (R49): CODE in bits 7..0, OP in bits 11..8. -/
def errCodeWord (r : Report) : Word := BitVec.ofNat 32 (r.code.toNat + 256 * r.op.toNat)

/-- ERR_CODE.CODE of each error (R401). -/
def errCode : ErrKind → Byte
  | .illegalCmd => 0x01
  | .seq => 0x02
  | .cfgScale => 0x03
  | .cfgDim => 0x04
  | .cfgRange => 0x05
  | .cfgContrast => 0x06
  | .cfgPscale => 0x07
  | .cfgPalette => 0x08
  | .bus => 0x09

/-- STATUS.STYLE_UNK at the start of a dither stage (R46, R251): the style code is not one of R130. -/
def styleUnknown (code : Byte) : Bool := decide (decodeStyle code = .passthrough code)

/-- Whether MSIZE selects a Bayer matrix (R133). -/
def msizeIsBayer (msize : Byte) : Bool :=
  decide (msize.toNat = 2) || decide (msize.toNat = 4) || decide (msize.toNat = 8) || decide (msize.toNat = 16)

/-- STATUS.MSIZE_FB at the start of a dither stage (R47, R251). -/
def msizeFallback (code msize : Byte) : Bool := decide (code = 0x20) && !msizeIsBayer msize

end Sys2Proof.Machine
end

