-- ==== Sys2Proof/Machine/Float.lean ====
section
/-! DEFINITION. IEEE 754 binary64 (00_scope.md R16 to R18), exactly, on natural numbers. A finite magnitude is a
whole number of units of 2^-1074, the smallest subnormal, so a sum, a product, a quotient or a root is computed
exactly and rounded once, to nearest with ties to even, by `fRound`. -/

namespace Sys2Proof.Machine

/-- 2^52, the weight of the hidden bit. -/
def fHidden : Nat := 0x10000000000000

/-- The magnitude bits (all but the sign) of an infinity. -/
def fInfMag : Nat := 0x7FF0000000000000

/-- The value 1.0 in units of 2^-1074. -/
def fOne : Nat := 1 <<< 1074

/-- The sign bit. -/
def fNeg (x : F64) : Bool := x.getLsbD 63

/-- The magnitude bits: exponent and fraction. -/
def fMag (x : F64) : Nat := x.toNat % 0x8000000000000000

/-- The value with a sign and magnitude bits. -/
def fMk (neg : Bool) (m : Nat) : F64 := BitVec.ofNat 64 (if neg then 0x8000000000000000 + m else m)

/-- The NaN this model writes; no rule lets software see which one (log entry 14). -/
def fNaN : F64 := 0x7FF8000000000000

def fIsNaN (x : F64) : Bool := decide (fInfMag < fMag x)

def fIsInf (x : F64) : Bool := decide (fMag x = fInfMag)

/-- A finite magnitude in units of 2^-1074. -/
def fUnits (m : Nat) : Nat :=
  if m / fHidden = 0 then m else (fHidden + m % fHidden) <<< (m / fHidden - 1)

/-- The place of the highest one bit of `n < 2^(2^f)`, by halving; it equals `Nat.log2 n` (Laws/Float.lean). -/
def fLog2 : Nat → Nat → Nat
  | 0, _ => 0
  | f + 1, n => if n >>> (1 <<< f) = 0 then fLog2 f n else (1 <<< f) + fLog2 f (n >>> (1 <<< f))

/-- `num / den` rounded to the nearest even whole number. -/
def divRne (num den : Nat) : Nat :=
  if den < 2 * (num % den) ∨ (den = 2 * (num % den) ∧ num / den % 2 = 1) then num / den + 1 else num / den

/-- The magnitude bits of `num / den` units rounded to nearest, ties to even (R17). The quotient is cut to 53 bits
at the place `k`; magnitude bits count on by one from one representable value to the next, so `k * 2^52` plus the
53-bit integer is the encoding, also when rounding carries. Beyond the largest finite value it is the infinity. -/
def fRound (num den : Nat) : Nat :=
  let k := fLog2 12 (num / den) - 52
  min (k * fHidden + divRne num (den <<< k)) fInfMag

/-- The sign of a product or a quotient. -/
def fSignXor (a b : F64) : Bool := fNeg a != fNeg b

/-- `a +f b`. -/
def fAdd (a b : F64) : F64 :=
  if fIsNaN a || fIsNaN b then fNaN
  else if fIsInf a then (if fIsInf b && fSignXor a b then fNaN else a)
  else if fIsInf b then b
  else if fNeg a = fNeg b then fMk (fNeg a) (fRound (fUnits (fMag a) + fUnits (fMag b)) 1)
  else if fUnits (fMag b) < fUnits (fMag a) then fMk (fNeg a) (fRound (fUnits (fMag a) - fUnits (fMag b)) 1)
  else if fUnits (fMag a) < fUnits (fMag b) then fMk (fNeg b) (fRound (fUnits (fMag b) - fUnits (fMag a)) 1)
  else fMk false 0

/-- The value with the other sign. -/
def fFlip (a : F64) : F64 := a ^^^ 0x8000000000000000#64

/-- `a -f b`. -/
def fSub (a b : F64) : F64 := fAdd a (fFlip b)

/-- `a ×f b`. -/
def fMul (a b : F64) : F64 :=
  if fIsNaN a || fIsNaN b then fNaN
  else if fIsInf a || fIsInf b then
    (if fMag a = 0 ∨ fMag b = 0 then fNaN else fMk (fSignXor a b) fInfMag)
  else fMk (fSignXor a b) (fRound (fUnits (fMag a) * fUnits (fMag b)) fOne)

/-- `a ÷f b`. -/
def fDiv (a b : F64) : F64 :=
  if fIsNaN a || fIsNaN b then fNaN
  else if fIsInf a then (if fIsInf b then fNaN else fMk (fSignXor a b) fInfMag)
  else if fIsInf b then fMk (fSignXor a b) 0
  else if fMag b = 0 then (if fMag a = 0 then fNaN else fMk (fSignXor a b) fInfMag)
  else fMk (fSignXor a b) (fRound (fUnits (fMag a) * fOne) (fUnits (fMag b)))

/-- The integer square root of `n < 4^k`, from the highest bit down; `r` is the root's bits found so far. -/
def isqrt : Nat → Nat → Nat → Nat
  | 0, _, r => r
  | k + 1, n, r =>
    if (r + 1 <<< k) * (r + 1 <<< k) ≤ n then isqrt k n (r + 1 <<< k) else isqrt k n r

/-- `sqrt64(a)`, correctly rounded. The root of a positive `u` is between `r * 2^t` and `(r + 1) * 2^t` units, with
`r` of at least 65 bits, so an inexact root rounds as the point half way between the two does. -/
def fSqrt (a : F64) : F64 :=
  if fIsNaN a then fNaN
  else if fMag a = 0 then a
  else if fNeg a then fNaN
  else if fIsInf a then a
  else
    let n := fUnits (fMag a) * fOne
    let t := fLog2 12 n / 2 - 65
    let r := isqrt 67 (n >>> (2 * t)) 0
    if (r <<< t) * (r <<< t) = n then fMk false (fRound (r <<< t) 1) else fMk false (fRound ((2 * r + 1) <<< t) 2)

/-- `fabs(a)`. -/
def fAbs (a : F64) : F64 := a &&& 0x7FFFFFFFFFFFFFFF#64

/-- `fmod(a, b)`: the IEEE remainder with the sign of `a`, exact. -/
def fMod (a b : F64) : F64 :=
  if fIsNaN a || fIsNaN b || fIsInf a then fNaN
  else if fMag b = 0 then fNaN
  else if fIsInf b then a
  else fMk (fNeg a) (fRound (fUnits (fMag a) % fUnits (fMag b)) 1)

/-- A finite or infinite value's place in the order of values; both zeros are 0. -/
def fVal (x : F64) : Int := if fNeg x then -(fMag x : Int) else (fMag x : Int)

/-- `a < b`; false when either is a NaN (R17). -/
def fLt (a b : F64) : Bool := !fIsNaN a && !fIsNaN b && decide (fVal a < fVal b)

/-- `a ≤ b`; false when either is a NaN. -/
def fLe (a b : F64) : Bool := !fIsNaN a && !fIsNaN b && decide (fVal a ≤ fVal b)

/-- The binary64 value nearest `num / den`: a decimal literal (R17). -/
def fOfRat (num den : Nat) : F64 := fMk false (fRound (num * fOne) den)

/-- `f64(n)` of a natural number; exact below 2^53 (R16). -/
def fOfNat (n : Nat) : F64 := fOfRat n 1

/-- `f64(n)` of an integer. -/
def fOfInt (n : Int) : F64 := fMk (decide (n < 0)) (fRound (n.natAbs * fOne) 1)

/-- `floor(a)` as an integer; 0 for an infinity or a NaN, which no rule meets (log entry 14). -/
def fFloor (a : F64) : Int :=
  if fIsNaN a || fIsInf a then 0
  else if fNeg a then -(((fUnits (fMag a) + (fOne - 1)) / fOne : Nat) : Int)
  else ((fUnits (fMag a) / fOne : Nat) : Int)

/-- `clamp(v, lo, hi)` (R18). -/
def fClamp (v lo hi : F64) : F64 := if fLt v lo then lo else if fLt hi v then hi else v

/-- `rne_u8(v)` (R18): clamp to 0..255, then round half to even; 0 for a NaN. -/
def rneU8 (v : F64) : Byte :=
  if fIsNaN v || fNeg v then 0
  else if 255 * fOne ≤ fUnits (fMag v) then 255
  else BitVec.ofNat 8 (divRne (fUnits (fMag v)) fOne)

/-- 0.0 -/
def f0 : F64 := 0x0000000000000000
/-- 0.5 -/
def fHalf : F64 := 0x3FE0000000000000
/-- 1.0 -/
def f1 : F64 := 0x3FF0000000000000
/-- -1.0 -/
def fMinus1 : F64 := 0xBFF0000000000000
/-- 2.0 -/
def f2 : F64 := 0x4000000000000000
/-- 50.0 -/
def f50 : F64 := 0x4049000000000000
/-- 127.0 -/
def f127 : F64 := 0x405FC00000000000
/-- 127.5 -/
def f127h : F64 := 0x405FE00000000000
/-- 128.0 -/
def f128 : F64 := 0x4060000000000000
/-- 255.0 -/
def f255 : F64 := 0x406FE00000000000
/-- 256.0 -/
def f256 : F64 := 0x4070000000000000
/-- 4294967296.0, that is 2^32 -/
def f2p32 : F64 := 0x41F0000000000000
/-- 0.299 -/
def f0299 : F64 := 0x3FD322D0E5604189
/-- 0.587 -/
def f0587 : F64 := 0x3FE2C8B439581062
/-- 0.114 -/
def f0114 : F64 := 0x3FBD2F1A9FBE76C9
/-- 12.9898 -/
def fHashX : F64 := 0x4029FAC710CB295F
/-- 78.233 -/
def fHashY : F64 := 0x40538EE978D4FDF4
/-- 43758.5453 -/
def fHashScale : F64 := 0x40E55DD17318FC50
/-- TWO_PI (R17) -/
def fTwoPi : F64 := 0x401921FB54442D18

end Sys2Proof.Machine
end

