-- ==== Sys2Proof/Machine/Operands.lean ====
section
/-! DEFINITION. The operands of the commands (30_encoding.md R125): fields of the configuration snapshot and of the
registers a SAMPLE stage latches, as the stage files name them, and the elements of the working buffers. -/

namespace Sys2Proof.Machine

/-- Bits [15:0] of a dimension register: a width (10_state.md R53, R54, R57). -/
def dimLo (w : Word) : Nat := w.toNat % 65536

/-- Bits [31:16] of a dimension register: a height. -/
def dimHi (w : Word) : Nat := w.toNat / 65536

/-- A dimension register from its two fields (R201, `{WH[15:0], WW[15:0]}`). -/
def mkDim (w h : Nat) : Word := BitVec.ofNat 32 (h % 65536 * 65536 + w % 65536)

/-- WW, the working width (R53). -/
def workW (s : State) : Nat := dimLo s.dims.work

/-- WH, the working height (R53). -/
def workH (s : State) : Nat := dimHi s.dims.work

/-- The source width and height of the snapshot (R57). -/
def snapW (s : State) : Nat := dimLo s.snap.srcDim
def snapH (s : State) : Nat := dimHi s.snap.srcDim

/-- The scale factor of the snapshot (R59). -/
def snapScale (s : State) : Nat := s.snap.scale.toNat

/-- The working resolution of R201 along one dimension. -/
def workLen (len scale : Nat) : Nat := max 1 (len / scale)

/-- A zero-area source (R57, 41_downsampler.md R202). -/
def zeroArea (s : State) : Bool := decide (snapW s = 0) || decide (snapH s = 0)

/-- P, the pattern-scale of the snapshot (R67). -/
def patScale (s : State) : Nat := s.snap.pscale.toNat

/-- The bleed factor (R68, 44_error_diffusion.md R271). -/
def bleedFactor (s : State) : F64 := fDiv (fOfNat s.snap.bleed.toNat) f256

/-- The contrast c of a tone tuple, as a two's-complement integer (R60). -/
def toneContrast (k : Tone) : Int := k.contrast.toInt

/-- Whether a LUT build is needed (42_tone_curve_lut.md R223). -/
def buildNeeded (s : State) : Bool := !s.lut.built || decide (s.lut.key ≠ s.snap.tone)

/-- N, the palette count of the snapshot (R71). -/
def palN (s : State) : Nat := s.snap.palCount.toNat

/-- `stop[k]` of the snapshot (47_palette_interp.md): bits [7:0] red, [15:8] green, [23:16] blue. -/
def stopOf (pal : Vector (BitVec 24) 16) (k : Nat) : Rgb :=
  let p : BitVec 24 := pal.toList.getD k 0
  ⟨p.extractLsb' 0 8, p.extractLsb' 8 8, p.extractLsb' 16 8⟩

/-- `BUF[x, y]` (R76): row y, column x. -/
def px (b : List (List Byte)) (x y : Nat) : Byte := (b.getD y []).getD x 0

/-- `CBUF[x, y]`. -/
def cpx (b : List (List Rgb)) (x y : Nat) : Rgb := (b.getD y []).getD x ⟨0, 0, 0⟩

/-- The row of a buffer whose element at x is `f x`. -/
def rowOf {α : Type} (f : Nat → α) (width : Nat) : List α := (List.range width).map f

end Sys2Proof.Machine
end

