-- ==== Sys2Proof/Machine/Ops.lean ====
section
/-! DEFINITION. The named operations every command is made of: frame memory and the engine's port (20_memory.md),
the races of R106, acceptance (40_commands.md R161), the register port (10_state.md R34 to R89), the places where host
accesses land, the end of a command (R165, R166, R168, R169) with the block's one exception, the command error
(60_exceptions.md R412), and the loop over rows with its row boundaries (R168). -/

namespace Sys2Proof.Machine

/-! ### Frame memory -/

/-- What an address that is not listed reads as (log entry 6). -/
def Memory.unlisted : Byte := 0

/-- The byte at an address. -/
def Memory.read : Memory → Nat → Byte
  | [], _ => Memory.unlisted
  | (a, b) :: m, x => if x = a then b else Memory.read m x

/-- Puts a byte before a memory, unless it is what an unlisted address reads as. -/
def Memory.put (a : Nat) (b : Byte) (m : Memory) : Memory := if b = Memory.unlisted then m else (a, b) :: m

/-- Writes a byte, keeping the addresses rising. -/
def Memory.write : Memory → Nat → Byte → Memory
  | [], x, v => Memory.put x v []
  | (a, b) :: m, x, v =>
    if x < a then Memory.put x v ((a, b) :: m)
    else if x = a then Memory.put a v m
    else (a, b) :: Memory.write m x v

/-- Every listed address is at least `lo`, the addresses rise strictly and lie below 2^32, and no byte listed is
what an unlisted address reads as. -/
def Memory.wfFrom : Nat → Memory → Bool
  | _, [] => true
  | lo, (a, b) :: m =>
    decide (lo ≤ a) && decide (a < 4294967296) && decide (b ≠ Memory.unlisted) && Memory.wfFrom (a + 1) m

/-- The canonical form of a memory. -/
def Memory.wf (m : Memory) : Bool := Memory.wfFrom 0 m

/-! ### The outcome of an engine action -/

/-- A step of the model. -/
abbrev Result := Host.Outcome State Fault Refusal

/-- What an engine action answers: the command goes on, or the step ends here. -/
inductive Flow where
  | on (s : State)
  | ended (o : Result)

/-- One action after another. -/
def Flow.andThen (f : Flow) (g : State → Flow) : Flow :=
  match f with
  | .on s => g s
  | .ended o => .ended o

/-- The outcome of a whole step. -/
def Flow.out : Flow → Result
  | .on s => .next s
  | .ended o => o

/-! ### Acceptance, and the last update of every command -/

/-- Every write of the ending command is performed at memory (20_memory.md R104): its races are over. -/
def writesPerformed (s : State) : State := { s with race := ⟨[], []⟩ }

/-- What every end of a command does last (R165, R166, R168, R169): the pending word goes into acceptance with BUSY
staying 1, or the engine is IDLE. ACC and SERP_E hold no value any more (R83). -/
def endCommand (s : State) : State :=
  { s with
    phase := if s.status.pending then .fetch s.pendCmd else .idle
    status := { s.status with pending := false }
    diff := ⟨[], none⟩
    race := ⟨[], []⟩ }

/-- The word of the running command (R84). -/
def runWord (s : State) : Word :=
  match s.phase with
  | .run w _ _ => w
  | .fetch w => w
  | .idle => 0

/-- Acceptance of a command word (R161): the flags and the report cleared, BUSY set, the snapshot taken (R162). The
record of races opens, and the values a read of WORK_DIM, LAT_SRC_DIM or LAT_SCALE may still return (R88) are
noted. -/
def accept (w : Word) (s : State) : State :=
  { s with
    status := { s.status with done := false, err := false }
    report := ⟨0, 0, 0⟩
    phase := .run w .start 0
    snap := s.cfg
    dimsBefore := s.dims
    race := ⟨[], []⟩ }

/-! ### The engine's memory port and the races on it -/

/-- Whether the memory port refuses an access (R410, U12). -/
def refuses (s : State) (addr size : Nat) (kind : AccessKind) : Bool :=
  s.plat.busRules.any fun r =>
    decide (r.region.base ≤ addr) && decide (addr < r.region.base + r.region.len) && decide (r.size = size)
      && decide (r.kind = kind)

/-- The values recorded for an address. -/
def recorded (cells : List Host.Cell) (a : Nat) : List Byte := (cells.filter fun c => c.1 = a).map fun c => c.2

/-- The values that the command's writes of an address replaced. -/
def oldValues (ws : List Written) (a : Nat) : List Byte := (ws.filter fun w => w.addr = a).map fun w => w.old

/-- The values that the command wrote to an address. -/
def newValues (ws : List Written) (a : Nat) : List Byte := (ws.filter fun w => w.addr = a).map fun w => w.new

/-- One of the admitted values of a race (R106), drawn afresh; `v` where there is no race. -/
def drawAmong (v : Byte) (cands : List Byte) (s : State) : Byte × State :=
  match cands with
  | [] => (v, s)
  | _ :: _ => (cands.getD (Config.freeNat s.free % cands.length) v, { s with free := s.free + 1 })

/-- The engine reads one byte. Where another agent wrote it during the command, the value is the one at acceptance
or any value written since (R106). -/
def engineRead (a : Nat) (s : State) : Byte × State := drawAmong (s.mem.read a) (recorded s.race.touched a) s

/-- The engine writes one byte. Where another agent wrote it during the command, that agent's value or the
command's stays (R106). -/
def engineWrite (a : Nat) (v : Byte) (s : State) : State :=
  let (b, s1) := drawAmong v (if (recorded s.race.touched a).isEmpty then [] else [v, s.mem.read a]) s
  { s1 with
    mem := s1.mem.write a b
    race := { s1.race with wrote := ⟨a, s.mem.read a, v⟩ :: s1.race.wrote } }

/-- Writes bytes from an address on, lowest address first (00_scope.md R19). -/
def writeBytes : Nat → List Byte → State → State
  | _, [], s => s
  | a, b :: bs, s => writeBytes (a + 1) bs (engineWrite a b s)

/-- Another agent writes a byte of frame memory. While a command that has written it runs, that agent's value or the
command's stays (R106); otherwise memory takes the value (R98). -/
def otherWrite (a : Nat) (v : Byte) (s : State) : State :=
  if busy s then
    let new := newValues s.race.wrote a
    let (b, s1) := drawAmong v (if new.isEmpty then [] else v :: new) s
    { s1 with
      mem := s1.mem.write a b
      race := { s1.race with touched := s1.race.touched ++ [(a, s.mem.read a), (a, v)] } }
  else { s with mem := s.mem.write a v }

/-- Another agent reads a byte of frame memory. While a command that writes it runs, it gets the old value or the
command's (R103, R106); `flight` is the byte of the write in flight there, of which it may see each byte (R96). -/
def otherRead (flight : List Byte) (a : Nat) (s : State) : Byte × State :=
  let seen := oldValues s.race.wrote a ++ newValues s.race.wrote a ++ flight
  if busy s then drawAmong (s.mem.read a) (if seen.isEmpty then [] else s.mem.read a :: seen) s
  else (s.mem.read a, s)

/-- One write of the engine: its address and its bytes, lowest address first. -/
structure PortWrite where
  addr : Nat
  bytes : List Byte
deriving DecidableEq, Repr

/-- Whether a write goes through: it lies in frame memory (R90) and the port takes it (R410). -/
def goesThrough (s : State) (w : PortWrite) : Bool :=
  decide (w.addr + w.bytes.length ≤ 4294967296) && !refuses s w.addr w.bytes.length .write

/-- The byte of the write in flight at an address, the first of the writes still to come. -/
def inFlight (ws : List PortWrite) (a : Nat) (s : State) : List Byte :=
  match ws with
  | [] => []
  | w :: _ =>
    if goesThrough s w && decide (w.addr ≤ a) && decide (a < w.addr + w.bytes.length) then [w.bytes.getD (a - w.addr) 0]
    else []

/-- The bytes of a write in flight that hold their new value when reset arrives (R101): byte i when bit i is set. -/
def writeTorn : Nat → Nat → BitVec 4 → List Byte → State → State
  | _, _, _, [], s => s
  | i, a, torn, b :: bs, s => writeTorn (i + 1) (a + 1) torn bs (if torn.getLsbD i then engineWrite a b s else s)

/-- The writes performed when reset arrives (R101): the first `n`, then the one in flight torn; none from a refused
one on. -/
def writePrefix : Nat → BitVec 4 → List PortWrite → State → State
  | _, _, [], s => s
  | n, torn, w :: ws, s =>
    if goesThrough s w then
      match n with
      | 0 => writeTorn 0 w.addr torn w.bytes s
      | n + 1 => writePrefix n torn ws (writeBytes w.addr w.bytes s)
    else s

/-! ### Reset -/

/-- Reset of the block (R440 to R442): every piece of the block's state takes its reset value; frame memory, the
platform's parameters and the world outside stay. -/
def blockReset (s : State) : State :=
  { State.reset with
    lut := { State.reset.lut with ram := Config.lutPowerOn s.free }
    mem := s.mem
    plat := s.plat
    inReset := true
    script := s.script
    portLog := s.portLog
    free := s.free + 1 }

/-! ### The register port -/

/-- The offset of a register in the window (R34). -/
def regOffset : Reg → Nat
  | .id => 0x000
  | .version => 0x004
  | .caps0 => 0x008
  | .caps1 => 0x00C
  | .cmd => 0x010
  | .status => 0x014
  | .irqEn => 0x018
  | .errCode => 0x01C
  | .errAddr => 0x020
  | .ctrl => 0x024
  | .bufValid => 0x028
  | .workDim => 0x02C
  | .latSrcDim => 0x030
  | .latScale => 0x034
  | .srcBase => 0x040
  | .srcDim => 0x044
  | .dstBase => 0x048
  | .scale => 0x04C
  | .contrast => 0x050
  | .midtone => 0x054
  | .highlight => 0x058
  | .thresh => 0x05C
  | .invert => 0x060
  | .style => 0x064
  | .msize => 0x068
  | .pscale => 0x06C
  | .bleed => 0x070
  | .depth => 0x074
  | .rngSeed => 0x078
  | .palCount => 0x07C
  | .pal k => 0x100 + 4 * k.val
  | .lutWin j => 0x200 + 4 * j.val

/-- The register at an offset (R34); none at a reserved offset (R86). -/
def regAt (off : Nat) : Option Reg :=
  match off with
  | 0x000 => some .id
  | 0x004 => some .version
  | 0x008 => some .caps0
  | 0x00C => some .caps1
  | 0x010 => some .cmd
  | 0x014 => some .status
  | 0x018 => some .irqEn
  | 0x01C => some .errCode
  | 0x020 => some .errAddr
  | 0x024 => some .ctrl
  | 0x028 => some .bufValid
  | 0x02C => some .workDim
  | 0x030 => some .latSrcDim
  | 0x034 => some .latScale
  | 0x040 => some .srcBase
  | 0x044 => some .srcDim
  | 0x048 => some .dstBase
  | 0x04C => some .scale
  | 0x050 => some .contrast
  | 0x054 => some .midtone
  | 0x058 => some .highlight
  | 0x05C => some .thresh
  | 0x060 => some .invert
  | 0x064 => some .style
  | 0x068 => some .msize
  | 0x06C => some .pscale
  | 0x070 => some .bleed
  | 0x074 => some .depth
  | 0x078 => some .rngSeed
  | 0x07C => some .palCount
  | _ =>
    if 0x100 ≤ off ∧ off < 0x140 ∧ off % 4 = 0 then some (.pal (Fin.ofNat 16 ((off - 0x100) / 4)))
    else if 0x200 ≤ off ∧ off < 0x300 ∧ off % 4 = 0 then some (.lutWin (Fin.ofNat 64 ((off - 0x200) / 4)))
    else none

/-- The word LUT_WIN[j] shows while the engine is IDLE (R73): LUT[4j + b] in byte b. -/
def lutWinWord (ram : Vector Byte 256) (j : Nat) : Word :=
  let b (k : Nat) : Nat := (ram.toList.getD (4 * j + k) 0).toNat
  BitVec.ofNat 32 (b 0 + 256 * b 1 + 65536 * b 2 + 16777216 * b 3)

/-- A read of one of the latched dimension registers (R88): while BUSY, the value before the running command or the
one latched, drawn afresh. -/
def drawDims (word : Dims → Word) (s : State) : Word × State :=
  if busy s then
    (if Config.freeNat s.free % 2 = 0 then word s.dims else word s.dimsBefore, { s with free := s.free + 1 })
  else (word s.dims, s)

/-- The word a register reads as (R35 to R73, R88), and the state after the read. -/
def regRead (r : Reg) (s : State) : Word × State :=
  match r with
  | .id => (0x544C5554, s)
  | .version => (0x00010007, s)
  | .caps0 => (s.plat.maxWH ++ s.plat.maxWW, s)
  | .caps1 => (0x00000010, s)
  | .cmd => (0, s)
  | .status => (statusWord s, s)
  | .irqEn => (irqEnWord s.irqEn, s)
  | .errCode => (errCodeWord s.report, s)
  | .errAddr => (s.report.addr, s)
  | .ctrl => ((BitVec.ofBool s.cfg.rngFree).setWidth 32, s)
  | .bufValid => (bufValidWord s, s)
  | .workDim => drawDims (fun d => d.work) s
  | .latSrcDim => drawDims (fun d => d.src) s
  | .latScale => drawDims (fun d => d.scale.setWidth 32) s
  | .srcBase => (s.cfg.srcBase, s)
  | .srcDim => (s.cfg.srcDim, s)
  | .dstBase => (s.cfg.dstBase, s)
  | .scale => (s.cfg.scale.setWidth 32, s)
  | .contrast => (s.cfg.tone.contrast.setWidth 32, s)
  | .midtone => (s.cfg.tone.midtone.setWidth 32, s)
  | .highlight => (s.cfg.tone.highlight.setWidth 32, s)
  | .thresh => (s.cfg.tone.thresh.setWidth 32, s)
  | .invert => ((BitVec.ofBool s.cfg.tone.invert).setWidth 32, s)
  | .style => (s.cfg.style.setWidth 32, s)
  | .msize => (s.cfg.msize.setWidth 32, s)
  | .pscale => (s.cfg.pscale.setWidth 32, s)
  | .bleed => (s.cfg.bleed.setWidth 32, s)
  | .depth => (s.cfg.depth.setWidth 32, s)
  | .rngSeed => (s.cfg.rngSeed, s)
  | .palCount => (s.cfg.palCount.setWidth 32, s)
  | .pal k => ((s.cfg.pal.get k).setWidth 32, s)
  | .lutWin j =>
    if busy s then (Config.freeWord s.free, { s with free := s.free + 1 }) else (lutWinWord s.lut.ram j.val, s)

/-- A base register holds a multiple of 4 (R56, R58). -/
def alignBase (v : Word) : Word := v &&& 0xFFFFFFFC

/-- A write to a configuration register or to CTRL (R51, R56 to R72); every other register leaves them. -/
def cfgWrite (r : Reg) (v : Word) (c : Cfg) : Cfg :=
  match r with
  | .ctrl => { c with rngFree := v.getLsbD 0 }
  | .srcBase => { c with srcBase := alignBase v }
  | .srcDim => { c with srcDim := v }
  | .dstBase => { c with dstBase := alignBase v }
  | .scale => { c with scale := v.setWidth 16 }
  | .contrast => { c with tone := { c.tone with contrast := v.setWidth 16 } }
  | .midtone => { c with tone := { c.tone with midtone := v.setWidth 16 } }
  | .highlight => { c with tone := { c.tone with highlight := v.setWidth 16 } }
  | .thresh => { c with tone := { c.tone with thresh := v.setWidth 8 } }
  | .invert => { c with tone := { c.tone with invert := v.getLsbD 0 } }
  | .style => { c with style := v.setWidth 8 }
  | .msize => { c with msize := v.setWidth 8 }
  | .pscale => { c with pscale := v.setWidth 16 }
  | .bleed => { c with bleed := v.setWidth 16 }
  | .depth => { c with depth := v.setWidth 16 }
  | .rngSeed => { c with rngSeed := if v = 0 then 1 else v }
  | .palCount => { c with palCount := v.setWidth 8 }
  | .pal k => { c with pal := c.pal.set k.val (v.setWidth 24) }
  | .id | .version | .caps0 | .caps1 | .cmd | .status | .irqEn | .errCode | .errAddr => c
  | .bufValid | .workDim | .latSrcDim | .latScale | .lutWin _ => c

/-- A write of CMD (R160, R167): a word for acceptance when the engine is IDLE, the pending word otherwise. -/
def submit (w : Word) (s : State) : State :=
  if busy s then { s with pendCmd := w, status := { s.status with pending := true } } else { s with phase := .fetch w }

/-- A register write (R39, R40, R48, R87). -/
def regWrite (r : Reg) (v : Word) (s : State) : State :=
  match r with
  | .cmd => submit v s
  | .status => { s with status := clearStatus v s.status }
  | .irqEn => { s with irqEn := irqEnOf v }
  | r => { s with cfg := cfgWrite r v s.cfg }

/-- A port has answered. -/
def answer (p : PortResp) (s : State) : State := { s with portLog := p :: s.portLog }

/-- The accesses the register port takes (R85): 32 bits at a word-aligned offset. -/
def portTakes (off : BitVec 12) (nbytes : Nat) : Bool := decide (nbytes = 4) && decide (off.toNat % 4 = 0)

/-- A host read of the window (R85, R86); while reset is asserted it returns 0 (R440). -/
def portRead (off : BitVec 12) (nbytes : Nat) (s : State) : State :=
  if !portTakes off nbytes then answer .error s
  else if s.inReset then answer (.data 0) s
  else
    match regAt off.toNat with
    | none => answer (.data 0) s
    | some r => answer (.data (regRead r s).1) (regRead r s).2

/-- A host write to the window (R85, R86); while reset is asserted it is ignored (R440). -/
def portWrite (off : BitVec 12) (nbytes : Nat) (v : Word) (s : State) : State :=
  if !portTakes off nbytes then answer .error s
  else if s.inReset then s
  else
    match regAt off.toNat with
    | none => s
    | some r => regWrite r v s

/-! ### Where the world's actions land -/

/-- What one item of the script does to the state while `ws` are the writes still to come of the row in progress (none
outside such a row); a reset performs a prefix of them (R101, R442). When an item waits or lets the engine go on is
`landItems` and Step.lean. -/
def hostAct (ws : List PortWrite) (i : HostItem) (s : State) : State :=
  match i with
  | .write off n v => portWrite off n v s
  | .read off n => portRead off n s
  | .memWrite a b => otherWrite a.toNat b s
  | .memRead a =>
    let seen := otherRead (inFlight ws a.toNat s) a.toNat s
    answer (.byte seen.1) seen.2
  | .waitIdle => portRead 0x014 4 s
  | .pass => s
  | .resetOn n torn => blockReset (writePrefix n torn ws s)
  | .resetOff => { s with inReset := false }

/-- The items that land at one point of a running command: all of them, to the next `pass` or WAITIDLE. -/
def landItems (ws : List PortWrite) : List HostItem → State → Flow
  | [], s => .on { s with script := [] }
  | .pass :: rest, s => .on { s with script := rest }
  | .waitIdle :: rest, s => .on { hostAct ws .waitIdle s with script := .waitIdle :: rest }
  | .resetOn n torn :: rest, s => .ended (.next { hostAct ws (.resetOn n torn) s with script := rest })
  | i :: rest, s => landItems ws rest (hostAct ws i s)

/-- A landing point: between two actions of the engine the world may act (R461, R87, R167). -/
def land (ws : List PortWrite) (s : State) : Flow := landItems ws s.script s

/-! ### How a command ends -/

/-- The updates of an ending, one after another; the world may act after each (R461). -/
def inTurn : List (State → State) → State → Flow
  | [], s => .on s
  | f :: fs, s => (land [] (f s)).andThen (inTurn fs)

/-- STATUS.DONE <- 1. -/
def setDone (s : State) : State := { s with status := { s.status with done := true } }

/-- The end of the command (R165, R166, R168). Where it takes the pending word (R169), the world may act once more
before that word is accepted. -/
def finish (s : State) : Flow := if s.status.pending then land [] (endCommand s) else .on (endCommand s)

/-- Completion (R165): every write is performed, then STATUS.DONE, then the end. -/
def complete (s : State) : Flow := (inTurn [fun s => setDone (writesPerformed s)] s).andThen finish

/-- ERR_CODE <- {OP, code} (R412), the opcode being that of the running command. -/
def setErrCode (k : ErrKind) (s : State) : State :=
  { s with report := { s.report with code := errCode k, op := cmdOp (runWord s) } }

/-- ERR_ADDR <- addr. -/
def setErrAddr (addr : Word) (s : State) : State := { s with report := { s.report with addr := addr } }

/-- STATUS.ERR <- 1. -/
def setErr (s : State) : State := { s with status := { s.status with err := true } }

/-- `raise Error(code, addr)` (R412), the block's one exception: with every write performed it saves the code with the
opcode of the command, then the address, sets STATUS.ERR and ends the command. Nothing else is saved, and there is no
handler. The return from it is the host's: it writes the next command. -/
def raiseError (k : ErrKind) (addr : Word) (s : State) : Flow :=
  ((inTurn [fun s => setErrCode k (writesPerformed s), setErrAddr addr, setErr] s).andThen finish).andThen fun s =>
    .ended (.next s)

/-- Every valid bit is 0. -/
def invalidate (s : State) : State := { s with valid := Valid.none }

/-- STATUS.PREEMPT <- 1. -/
def setPreempt (s : State) : State := { s with status := { s.status with preempt := true } }

/-- `abandon()` (R168): with every write performed, the valid bits, then STATUS.PREEMPT, then the pending word. -/
def abandon (s : State) : Flow :=
  ((inTurn [fun s => invalidate (writesPerformed s), setPreempt] s).andThen finish).andThen fun s => .ended (.next s)

/-- `row_boundary()` (R168): the running command is abandoned here when a word is pending. -/
def boundary (s : State) : Flow := if s.status.pending then abandon s else .on s

/-- Performs writes one at a time, in order (R101, R103): a refused one ends the command with BUS, the ones before it
performed (R410). The world may act after each. -/
def performWrites : List PortWrite → State → Flow
  | [], s => .on s
  | w :: ws, s =>
    if 4294967296 < w.addr + w.bytes.length then .ended (.fault .outsideFrameMemory)
    else if refuses s w.addr w.bytes.length .write then raiseError .bus (BitVec.ofNat 32 w.addr) s
    else (land ws (writeBytes w.addr w.bytes s)).andThen (performWrites ws)

/-! ### Rows -/

/-- The engine reaches a row of a stage (R84). -/
def atRow (stage : Stage) (row : Nat) (s : State) : State :=
  { s with
    phase :=
      match s.phase with
      | .run w _ _ => .run w stage row
      | .fetch w => .fetch w
      | .idle => .idle }

/-- The rows of a stage, in order, with a row boundary between two rows (R168) and none after the last. The world
may act as a row begins and as it ends, and where the row accesses frame memory, after each access; in a stage without
rows (WORK_DIM = 0) it may act once, between the start of the stage and its end. -/
def rowLoop (stage : Stage) (writes : Nat → State → List PortWrite) (body : Nat → State → Flow) :
    List Nat → State → Flow
  | [], s => land [] s
  | y :: ys, s =>
    ((land (writes y (atRow stage y s)) (atRow stage y s)).andThen (body y)).andThen fun s1 =>
      (land [] s1).andThen fun s2 =>
        match ys with
        | [] => .on s2
        | _ :: _ => (boundary s2).andThen fun s3 => rowLoop stage writes body ys s3

/-- A stage whose rows write no frame memory. -/
def noWrites : Nat → State → List PortWrite := fun _ _ => []

/-- The rows 0 .. n-1 of a stage whose rows only change the block's own state. -/
def pureRows (stage : Stage) (n : Nat) (row : Nat → State → State) (s : State) : Flow :=
  rowLoop stage noWrites (fun y s => .on (row y s)) (List.range n) s

/-- The rows 0 .. n-1 of a stage whose rows write frame memory. -/
def writingRows (stage : Stage) (n : Nat) (writes : Nat → State → List PortWrite) (s : State) : Flow :=
  rowLoop stage writes (fun y s => performWrites (writes y s) s) (List.range n) s

/-- The end of a stage of RUN_FRAME: the world may act, and the point between two stages is a row boundary (R168). -/
def betweenStages (s : State) : Flow := (land [] s).andThen boundary

/-! ### Prechecks and launch -/

/-- One check of a precheck (R415): whether it fails, its code and its ERR_ADDR. -/
structure Check where
  fails : Bool
  kind : ErrKind
  addr : Word
deriving DecidableEq, Repr

/-- The first check that fails (R415). -/
def firstFail (cs : List Check) : Option Check := cs.find? fun c => c.fails

/-- SEQ (R403): the input buffer's valid bit. -/
def checkSeq (valid : Bool) : Check := ⟨!valid, .seq, 0⟩

/-- CFG_SCALE (R404). -/
def checkScale (s : State) : Check := ⟨decide (snapScale s = 0), .cfgScale, 0⟩

/-- CFG_DIM (R405). -/
def checkDim (s : State) : Check :=
  ⟨decide (s.plat.maxWW.toNat < workLen (snapW s) (snapScale s))
    || decide (s.plat.maxWH.toNat < workLen (snapH s) (snapScale s)), .cfgDim, 0⟩

/-- CFG_RANGE (R406): a region of `size` bytes at `base` passes address 0xFFFFFFFF. -/
def checkRange (base : Word) (size : Nat) : Check := ⟨decide (4294967296 < base.toNat + size), .cfgRange, base⟩

/-- CFG_CONTRAST (R407): a LUT build is needed and c ≥ 259. -/
def checkContrast (needed : Bool) (s : State) : Check :=
  ⟨needed && decide (259 ≤ toneContrast s.snap.tone), .cfgContrast, 0⟩

/-- CFG_PSCALE (R408). -/
def checkPscale (s : State) : Check := ⟨decide (patScale s = 0), .cfgPscale, 0⟩

/-- CFG_PALETTE (R409). -/
def checkPalette (s : State) : Check := ⟨decide (palN s = 0) || decide (16 < palN s), .cfgPalette, 0⟩

/-- Whether a region meets a device region (R98): they have a byte in common. An empty region has none. -/
def meetsDevice (s : State) (r : Region) : Bool :=
  s.plat.devices.any fun d =>
    decide (0 < r.len) && decide (0 < d.len) && decide (d.base < r.base + r.len) && decide (r.base < d.base + d.len)

/-- A command from acceptance on (R161): acceptance, then the precheck, then the launch over ordinary memory (R98),
then its body. -/
def runCommand (w : Word) (checks : State → List Check) (regions : State → List Region) (body : State → Flow)
    (s : State) : Result :=
  ((land [] (accept w s)).andThen fun s1 =>
    match firstFail (checks s1) with
    | some c => raiseError c.kind c.addr s1
    | none => if (regions s1).any (meetsDevice s1) then .ended (.refused .deviceRegion) else body s1).out

/-- A body after which the command completes (R165). The world may act once more before it does. -/
def thenComplete (f : Flow) : Flow := (f.andThen (land [])).andThen complete

/-- A command that touches no frame memory. -/
def noRegions : State → List Region := fun _ => []

end Sys2Proof.Machine
end

