-- ==== Sys2Proof/Machine/DitherStage.lean ====
section
/-! DEFINITION. dither_dispatch_engine, stage 3 (43_dither_dispatch.md): DITHER, which starts the stage, the
passthrough, the random source, and what every style does around its rows. The stage is dispatched on SNAP.STYLE by
the next step (Step.lean), as the table's style rows are decoded apart from the command words. -/

namespace Sys2Proof.Machine

/-- `stage_dither_start()` (R251). -/
def startDither (s : State) : State :=
  { s with
    status :=
      { s.status with
        styleUnk := styleUnknown s.snap.style
        msizeFb := msizeFallback s.snap.style s.snap.msize }
    rngState := if s.snap.rngFree then s.rngState else s.snap.rngSeed
    valid := { s.valid with mbuf := false, dbuf := false, cbuf := false } }

/-- The stage has started and the variant is dispatched next (R252). -/
def dispatchDither (s : State) : State := atRow .dither 0 (startDither s)

/-- DITHER (R259), to the dispatch of its variant. -/
def execDither (s : State) : Result :=
  runCommand 0x05 (fun s => [checkSeq s.valid.tbuf, checkPscale s]) noRegions (fun s => .on (dispatchDither s)) s

/-- Whether the running command is RUN_FRAME. -/
def runsFrame (s : State) : Bool := decide (decodeCmd (runWord s) = .runFrame)

/-- MBUF_V <- 1 (R254); ACC and SERP_E exist no longer (10_state.md R83). -/
def mbufDone (s : State) : State := { s with valid := { s.valid with mbuf := true }, diff := ⟨[], none⟩ }

/-- The end of the dither stage: DITHER completes (R259), RUN_FRAME goes on with its next stage (R171). -/
def endDither (s : State) : Flow :=
  if runsFrame s then (betweenStages (mbufDone s)).andThen fun s1 => .on (atRow .depth 0 s1)
  else thenComplete (.on (mbufDone s))

/-- A variant: what it sets up, then its rows, each of which gives a row of MBUF and the state beside it. -/
def runStyle (setUp : State → State) (row : Nat → State → List Byte × State) (s : State) : Result :=
  ((pureRows .dither (workH s)
      (fun y s => let s1 := (row y s).2; { s1 with bufs := { s1.bufs with mbuf := s1.bufs.mbuf ++ [(row y s).1] } })
      (setUp { s with bufs := { s.bufs with mbuf := [] } })).andThen endDither).out

/-- A variant without state between elements: MBUF[x, y] from the element's value and its place (R300). -/
def runPointwise (f : State → Nat → Nat → Byte → Byte) (s : State) : Result :=
  runStyle (fun s => s) (fun y s => (rowOf (fun x => f s x y (px s.bufs.tbuf x y)) (workW s), s)) s

/-- The passthrough (R253): MBUF is TBUF. -/
def execPassthrough (_code : Byte) (s : State) : Result := runPointwise (fun _ _ _ i => i) s

/-- One xorshift32 step (R256). -/
def xorshift (x : Word) : Word :=
  let a := x ^^^ (x <<< 13)
  let b := a ^^^ (a >>> 17)
  b ^^^ (b <<< 5)

/-- The result of a draw that left RNG_STATE at `x` (R256): x / 2^32, exactly. -/
def randOf (x : Word) : F64 := fDiv (fOfNat x.toNat) f2p32

/-- One row of a random variant (R257): one draw per element, left to right. -/
def drawRow (f : F64 → Byte → Byte) : List Byte → Word → List Byte × Word
  | [], g => ([], g)
  | i :: is, g => (f (randOf (xorshift g)) i :: (drawRow f is (xorshift g)).1, (drawRow f is (xorshift g)).2)

/-- A variant that draws once per element in raster order (R257). -/
def runRandom (f : F64 → Byte → Byte) (s : State) : Result :=
  runStyle (fun s => s)
    (fun y s =>
      let out := drawRow f (rowOf (fun x => px s.bufs.tbuf x y) (workW s)) s.rngState
      (out.1, { s with rngState := out.2 })) s

end Sys2Proof.Machine
end

