-- ==== Sys2Proof/Machine/Diffusion.lean ====
section
/-! DEFINITION. error_diffusion_accum (44_error_diffusion.md): the eight kernel styles, VC.OSTROMOUKHOV and
SFC.RIEMERSMA. -/

namespace Sys2Proof.Machine

/-- A share of an element's error for the element at (x + dx, y + dy). -/
structure Share where
  dx : Int
  dy : Nat
  amount : F64
deriving DecidableEq, Repr

/-- `ACC[x, y]`. -/
def accGet (acc : List (List F64)) (x y : Nat) : F64 := (acc.getD y []).getD x f0

/-- `ACC[x, y] <- ACC[x, y] +f v`. -/
def accAdd (acc : List (List F64)) (x y : Nat) (v : F64) : List (List F64) :=
  acc.modify y fun r => r.modify x fun a => fAdd a v

/-- Adds one share to ACC; a share that falls outside the buffer is dropped (R270). -/
def addShare (width height x y : Nat) (acc : List (List F64)) (sh : Share) : List (List F64) :=
  if 0 ≤ (x : Int) + sh.dx ∧ (x : Int) + sh.dx < width ∧ y + sh.dy < height then
    accAdd acc ((x : Int) + sh.dx).toNat (y + sh.dy) sh.amount
  else acc

/-- The comparison of the diffusers (R270, R283, R285): 255 above 127.0, else 0; 0 for a NaN. -/
def quantize (v : F64) : Byte := if fLt f127 v then 255 else 0

/-- One element of a diffuser: `shares` gives the parts of its error from TBUF[x, y] and `old -f f64(new)`. `st` holds
the row of MBUF so far and ACC. -/
def diffusePixel (shares : Byte → F64 → List Share) (tbuf : List (List Byte)) (width height y : Nat)
    (st : List Byte × List (List F64)) (x : Nat) : List Byte × List (List F64) :=
  let old := accGet st.2 x y
  let new := quantize old
  (st.1 ++ [new],
    (shares (px tbuf x y) (fSub old (fOfNat new.toNat))).foldl (addShare width height x y) st.2)

/-- Row y of a diffuser, left to right. -/
def diffuseRow (shares : Byte → F64 → List Share) (y : Nat) (s : State) : List Byte × State :=
  let out := (List.range (workW s)).foldl (diffusePixel shares s.bufs.tbuf (workW s) (workH s) y) ([], s.diff.acc)
  (out.1, { s with diff := { s.diff with acc := out.2 } })

/-- ACC starts as TBUF (R270, R283). -/
def initAcc (s : State) : State :=
  { s with
    diff :=
      { s.diff with acc := (List.range (workH s)).map fun y => rowOf (fun x => fOfNat (px s.bufs.tbuf x y).toNat) (workW s) } }

/-- The shares of the kernel diffuser (R270): `err = (old -f new) ×f bleed`, `(err ×f wt) ÷f div` per tap. -/
def kernelShares (k : Kernel) (bleed : F64) (_i : Byte) (e : F64) : List Share :=
  k.taps.map fun t => ⟨t.dx, t.dy, fDiv (fMul (fMul e bleed) (fOfInt t.wt)) (fOfNat k.div)⟩

/-- The kernel diffuser `ed(div, taps)` (R270). -/
def runKernel (k : Kernel) (s : State) : Result :=
  runStyle initAcc (fun y s => diffuseRow (kernelShares k (bleedFactor s)) y s) s

/-- ED.FLOYD_STEINBERG (R273). -/
def execEdFloydSteinberg (s : State) : Result := runKernel ⟨16, tapsFloydSteinberg⟩ s

/-- ED.ATKINSON (R274). -/
def execEdAtkinson (s : State) : Result := runKernel ⟨8, s.plat.kernels.atkinson⟩ s

/-- ED.JJN (R275). -/
def execEdJjn (s : State) : Result := runKernel ⟨48, s.plat.kernels.jjn⟩ s

/-- ED.STUCKI (R276). -/
def execEdStucki (s : State) : Result := runKernel ⟨42, s.plat.kernels.stucki⟩ s

/-- ED.BURKES (R277). -/
def execEdBurkes (s : State) : Result := runKernel ⟨32, s.plat.kernels.burkes⟩ s

/-- ED.SIERRA (R278). -/
def execEdSierra (s : State) : Result := runKernel ⟨32, s.plat.kernels.sierra⟩ s

/-- ED.SIERRA2 (R279). -/
def execEdSierra2 (s : State) : Result := runKernel ⟨16, s.plat.kernels.sierra2⟩ s

/-- ED.SIERRA_LITE (R280). -/
def execEdSierraLite (s : State) : Result := runKernel ⟨4, s.plat.kernels.sierraLite⟩ s

/-- The coefficients (c1, c2, c3) of the VC diffuser (R282), by the column I of its table. -/
def vcCoeffs (i : Byte) : Nat × Nat × Nat :=
  if i.toNat ≤ 63 then (13, 0, 5)
  else if i.toNat ≤ 127 then (6, 13, 0)
  else if i.toNat ≤ 191 then (0, 7, 13)
  else (3, 5, 13)

/-- The shares of the VC diffuser (R283): `e = (old -f new) ÷f (c1 + c2 + c3)`, `e ×f c` per tap; no bleed. -/
def vcShares (i : Byte) (e : F64) : List Share :=
  let (c1, c2, c3) := vcCoeffs i
  let q := fDiv e (fOfNat (c1 + c2 + c3))
  [⟨1, 0, fMul q (fOfNat c1)⟩, ⟨-1, 1, fMul q (fOfNat c2)⟩, ⟨0, 1, fMul q (fOfNat c3)⟩]

/-- VC.OSTROMOUKHOV (R283). -/
def execVcOstromoukhov (s : State) : Result := runStyle initAcc (fun y s => diffuseRow vcShares y s) s

/-- The elements of a row in the order of the serpentine scan (R285): the outputs in that order and SERP_E after
them. -/
def serpScan (damp : F64) : List Byte → F64 → List Byte × F64
  | [], e => ([], e)
  | i :: is, e =>
    let v := fAdd (fOfNat i.toNat) e
    let rest := serpScan damp is (fMul (fSub v (fOfNat (quantize v).toNat)) damp)
    (quantize v :: rest.1, rest.2)

/-- Row y of the serpentine diffuser (R284): an even row runs left to right, an odd row right to left. -/
def serpRow (y : Nat) (s : State) : List Byte × State :=
  let elems := rowOf (fun x => px s.bufs.tbuf x y) (workW s)
  let out := serpScan s.plat.serpDamp (if y % 2 = 0 then elems else elems.reverse) (s.diff.serpE.getD f0)
  (if y % 2 = 0 then out.1 else out.1.reverse, { s with diff := { s.diff with serpE := some out.2 } })

/-- SFC.RIEMERSMA (R285): SERP_E starts at +0.0. -/
def execSfcRiemersma (s : State) : Result :=
  runStyle (fun s => { s with diff := { s.diff with serpE := some f0 } }) serpRow s

end Sys2Proof.Machine
end

