-- ==== Sys2Proof/Machine/Dump.lean ====
section
/-! DEFINITION. DUMP, the copy of a working buffer to frame memory (40_commands.md R172 to R177). -/

namespace Sys2Proof.Machine

/-- The writes of buffer row y (R172): for each element its bytes, each with one 1-byte write, packed. -/
def dumpWrites (e : Nat) (elem : State → Nat → Nat → List Byte) (y : Nat) (s : State) : List PortWrite :=
  (List.range (workW s)).flatMap fun x =>
    (List.range e).map fun k => ⟨s.snap.dstBase.toNat + e * (y * workW s + x) + k, [(elem s x y).getD k 0]⟩

/-- The size of the destination region (R172). -/
def dumpSize (e : Nat) (s : State) : Nat := e * workW s * workH s

/-- DUMP of a buffer with its valid bit, its bytes per element and the bytes of an element (R172). -/
def runDump (w : Word) (valid : Valid → Bool) (e : Nat) (elem : State → Nat → Nat → List Byte) (s : State) : Result :=
  runCommand w (fun s => [checkSeq (valid s.valid), checkRange s.snap.dstBase (dumpSize e s)])
    (fun s => [⟨s.snap.dstBase.toNat, dumpSize e s⟩])
    (fun s => thenComplete (writingRows .dump (workH s) (dumpWrites e elem) s)) s

/-- DUMP.IBUF (R173). -/
def execDumpIbuf (s : State) : Result := runDump 0x09 (fun v => v.ibuf) 1 (fun s x y => [px s.bufs.ibuf x y]) s

/-- DUMP.TBUF (R174). -/
def execDumpTbuf (s : State) : Result := runDump 0x19 (fun v => v.tbuf) 1 (fun s x y => [px s.bufs.tbuf x y]) s

/-- DUMP.MBUF (R175). -/
def execDumpMbuf (s : State) : Result := runDump 0x29 (fun v => v.mbuf) 1 (fun s x y => [px s.bufs.mbuf x y]) s

/-- DUMP.DBUF (R176). -/
def execDumpDbuf (s : State) : Result := runDump 0x39 (fun v => v.dbuf) 1 (fun s x y => [px s.bufs.dbuf x y]) s

/-- The bytes of an element of CBUF (R172): red, green, blue. -/
def rgbBytes (c : Rgb) : List Byte := [c.r, c.g, c.b]

/-- DUMP.CBUF (R177). -/
def execDumpCbuf (s : State) : Result :=
  runDump 0x49 (fun v => v.cbuf) 3 (fun s x y => rgbBytes (cpx s.bufs.cbuf x y)) s

end Sys2Proof.Machine
end

