-- ==== Sys2Proof/Machine/Depth.lean ====
section
/-! DEFINITION. depth_shadow_filter, stage 4 (46_depth_shadow.md): DEPTH. -/

namespace Sys2Proof.Machine

/-- DBUF[p, y] (R340). -/
def depthPixel (off width : Nat) (mbuf : List (List Byte)) (p y : Nat) : Byte :=
  if 0 < off ∧ p + off < width ∧ px mbuf (p + off) y = 0 then 0 else px mbuf p y

/-- The start of the stage (40_commands.md R163). -/
def startDepth (s : State) : State :=
  { s with valid := { s.valid with dbuf := false, cbuf := false }, bufs := { s.bufs with dbuf := [] } }

/-- Row y of DBUF. -/
def depthRow (y : Nat) (s : State) : State :=
  { s with
    bufs :=
      { s.bufs with
        dbuf := s.bufs.dbuf ++ [rowOf (fun p => depthPixel s.snap.depth.toNat (workW s) s.bufs.mbuf p y) (workW s)] } }

/-- `stage_depth()` (R340). -/
def stageDepth (s : State) : Flow :=
  (pureRows .depth (workH s) depthRow (startDepth s)).andThen
    fun s1 => .on { s1 with valid := { s1.valid with dbuf := true } }

/-- DEPTH (R340). -/
def execDepth (s : State) : Result :=
  runCommand 0x06 (fun s => [checkSeq s.valid.mbuf]) noRegions (fun s => thenComplete (stageDepth s)) s

end Sys2Proof.Machine
end

