-- ==== Sys2Proof/Machine/Palette.lean ====
section
/-! DEFINITION. palette_interp_lut, stage 5 (47_palette_interp.md): PALETTE. -/

namespace Sys2Proof.Machine

/-- One channel of the interpolation (R352): a + (b - a) × frac, then rne_u8. -/
def lerp (a b : Byte) (frac : F64) : Byte :=
  rneU8 (fAdd (fOfNat a.toNat) (fMul (fSub (fOfNat b.toNat) (fOfNat a.toNat)) frac))

/-- `pal(g)` (R352) for N stops. -/
def palMap (stops : Vector (BitVec 24) 16) (n : Nat) (g : Byte) : Rgb :=
  let pos := fMul (fDiv (fOfNat g.toNat) f255) (fOfNat (n - 1))
  let idx := (fFloor pos).toNat
  let frac := fSub pos (fOfNat idx)
  let a := stopOf stops idx
  let b := stopOf stops (min (idx + 1) (n - 1))
  ⟨lerp a.r b.r frac, lerp a.g b.g frac, lerp a.b b.b frac⟩

/-- The start of the stage (40_commands.md R163). -/
def startPalette (s : State) : State :=
  { s with valid := { s.valid with cbuf := false }, bufs := { s.bufs with cbuf := [] } }

/-- Row y of CBUF. -/
def paletteRow (y : Nat) (s : State) : State :=
  { s with
    bufs :=
      { s.bufs with
        cbuf := s.bufs.cbuf ++ [rowOf (fun x => palMap s.snap.pal (palN s) (px s.bufs.dbuf x y)) (workW s)] } }

/-- `stage_palette()` (R350). -/
def stagePalette (s : State) : Flow :=
  (pureRows .palette (workH s) paletteRow (startPalette s)).andThen
    fun s1 => .on { s1 with valid := { s1.valid with cbuf := true } }

/-- PALETTE (R350). -/
def execPalette (s : State) : Result :=
  runCommand 0x07 (fun s => [checkSeq s.valid.dbuf, checkPalette s]) noRegions
    (fun s => thenComplete (stagePalette s)) s

end Sys2Proof.Machine
end

