-- ==== Sys2Proof/Machine/Sampler.lean ====
section
/-! DEFINITION. image_downsampler, stage 1 (41_downsampler.md): SAMPLE. -/

namespace Sys2Proof.Machine

/-- Luminance (R205): binary64 in the order the rule writes out, then floor and clamp. -/
def lum (r g b : Byte) : Byte :=
  let v := fAdd (fAdd (fMul f0299 (fOfNat r.toNat)) (fMul f0587 (fOfNat g.toNat))) (fMul f0114 (fOfNat b.toNat))
  BitVec.ofNat 8 (min (fFloor v).toNat 255)

/-- The address of the source pixel of working cell (x, y) (R204). -/
def sampleAddr (s : State) (x y : Nat) : Nat :=
  s.snap.srcBase.toNat + 4 * (y * snapScale s * snapW s + x * snapScale s)

/-- Reads a 4-byte pixel (20_memory.md R92, R94) and gives its luminance; the alpha byte is read and not used. -/
def samplePixel (a : Nat) (s : State) : Byte × State :=
  let (r, s1) := engineRead a s
  let (g, s2) := engineRead (a + 1) s1
  let (b, s3) := engineRead (a + 2) s2
  let (_, s4) := engineRead (a + 3) s3
  (lum r g b, s4)

/-- One row of the stage: the pixels at `addrs` in order, one 4-byte read each (R204), `row` the elements so far. A
refused read ends the command with BUS (R410). The world may act after each. -/
def sampleRow : List Nat → List Byte → State → Flow
  | [], row, s => .on { s with bufs := { s.bufs with ibuf := s.bufs.ibuf ++ [row] } }
  | a :: as, row, s =>
    if 4294967296 < a + 4 then .ended (.fault .outsideFrameMemory)
    else if refuses s a 4 .read then raiseError .bus (BitVec.ofNat 32 a) s
    else (land [] (samplePixel a s).2).andThen (sampleRow as (row ++ [(samplePixel a s).1]))

/-- `latch(WW, WH)` (R201): the three dimension registers, in one step. -/
def latchDims (work : Word) (s : State) : State := { s with dims := ⟨work, s.snap.srcDim, s.snap.scale⟩ }

/-- WORK_DIM of the snapshot's source and scale (R201). -/
def snapWork (s : State) : Word := mkDim (workLen (snapW s) (snapScale s)) (workLen (snapH s) (snapScale s))

/-- The valid bits at the start of the stage (40_commands.md R163). -/
def clearForSample (s : State) : State := { s with valid := Valid.none, bufs := { s.bufs with ibuf := [] } }

/-- `stage_sample()` (R200). -/
def stageSample (s : State) : Flow :=
  ((land [] (latchDims (snapWork s) s)).andThen fun s1 =>
    rowLoop .sample noWrites (fun y s => sampleRow ((List.range (workW s)).map fun x => sampleAddr s x y) [] s)
      (List.range (workH s1)) (clearForSample s1)).andThen
    fun s2 => .on { s2 with valid := { s2.valid with ibuf := true } }

/-- An empty IBUF is the one valid buffer (R202). -/
def emptySample (s : State) : State :=
  { s with valid := { Valid.none with ibuf := true }, bufs := { s.bufs with ibuf := [] } }

/-- `zero_area_sample()` (R202). -/
def zeroAreaSample (s : State) : Flow := (land [] (latchDims 0 s)).andThen fun s1 => .on (emptySample s1)

/-- The source region (R406, R98). -/
def sourceSize (s : State) : Nat := 4 * snapW s * snapH s
def sourceRegion (s : State) : Region := ⟨s.snap.srcBase.toNat, sourceSize s⟩

/-- The checks of the SAMPLE stage (R203). -/
def sampleChecks (s : State) : List Check := [checkScale s, checkDim s, checkRange s.snap.srcBase (sourceSize s)]

/-- SAMPLE (R200). -/
def execSample (s : State) : Result :=
  runCommand 0x03 (fun s => if zeroArea s then [] else sampleChecks s)
    (fun s => if zeroArea s then [] else [sourceRegion s])
    (fun s => thenComplete (if zeroArea s then zeroAreaSample s else stageSample s)) s

end Sys2Proof.Machine
end

