-- ==== Sys2Proof/Machine/Tone.lean ====
section
/-! DEFINITION. tone_curve_lut, stage 2 (42_tone_curve_lut.md): the LUT build, BUILD_LUT and TONEMAP. -/

namespace Sys2Proof.Machine

/-- The contrast step of R220, skipped at c = 0. -/
def contrastStep (c : Int) (v : F64) : F64 :=
  if c = 0 then v
  else fAdd (fMul (fDiv (fOfInt (259 * (c + 255))) (fOfInt (255 * (259 - c)))) (fSub v f128)) f128

/-- The tone-curve split of R220 on the normalised level. -/
def splitStep (k : Tone) (n : F64) : F64 :=
  if fLt n fHalf then fMul n (fDiv (fOfNat k.midtone.toNat) f50)
  else fAdd fHalf (fDiv (fMul (fSub n fHalf) (fOfNat k.highlight.toNat)) f50)

/-- LUT[i] of a build from K (R220). -/
def lutEntry (k : Tone) (i : Nat) : Byte :=
  let v := fClamp (contrastStep (toneContrast k) (fOfInt ((i : Int) + 128 - (k.thresh.toNat : Int)))) f0 f255
  let v := fMul (splitStep k (fDiv v f255)) f255
  rneU8 (if k.invert then fSub f255 v else v)

/-- The 256 entries of a build from K. Comparing states must not unroll it: it unfolds only where asked. -/
@[irreducible] def lutTable (k : Tone) : Vector Byte 256 := Vector.ofFn fun i : Fin 256 => lutEntry k i.val

/-- `build_lut(K)` (R220): the whole table, then the key, as one step. -/
def buildLut (s : State) : State := { s with lut := ⟨lutTable s.snap.tone, true, s.snap.tone⟩ }

/-- BUILD_LUT (R224): always builds. -/
def execBuildLut (s : State) : Result :=
  runCommand 0x02 (fun s => [checkContrast true s]) noRegions (fun s => thenComplete (.on (buildLut s))) s

/-- `LUT[i]` (R226). -/
def lutGet (ram : Vector Byte 256) (i : Byte) : Byte := ram.toList.getD i.toNat 0

/-- The build where one is needed (R223). -/
def buildIfNeeded (s : State) : State := if buildNeeded s then buildLut s else s

/-- The valid bits at the start of the stage (R163). -/
def startTonemap (s : State) : State :=
  { s with
    valid := { s.valid with tbuf := false, mbuf := false, dbuf := false, cbuf := false }
    bufs := { s.bufs with tbuf := [] } }

/-- Row y of TBUF (R226). -/
def tonemapRow (y : Nat) (s : State) : State :=
  { s with
    bufs := { s.bufs with tbuf := s.bufs.tbuf ++ [rowOf (fun x => lutGet s.lut.ram (px s.bufs.ibuf x y)) (workW s)] } }

/-- `stage_tonemap()` (R225). The world may act between the build and the valid bits. -/
def stageTonemap (s : State) : Flow :=
  ((land [] (buildIfNeeded s)).andThen fun s1 => pureRows .tonemap (workH s1) tonemapRow (startTonemap s1)).andThen
    fun s2 => .on { s2 with valid := { s2.valid with tbuf := true } }

/-- TONEMAP (R225). -/
def execTonemap (s : State) : Result :=
  runCommand 0x04 (fun s => [checkSeq s.valid.ibuf, checkContrast (buildNeeded s) s]) noRegions
    (fun s => thenComplete (stageTonemap s)) s

end Sys2Proof.Machine
end

