-- ==== Sys2Proof/Machine/Upscale.lean ====
section
/-! DEFINITION. image_upsampler, stage 6 (48_upsampler.md): UPSCALE. -/

namespace Sys2Proof.Machine

/-- The latched source width and height, which are the destination's (R370; 10_state.md R54), and the latched scale
(R55). -/
def latW (s : State) : Nat := dimLo s.dims.src
def latH (s : State) : Nat := dimHi s.dims.src
def latScale (s : State) : Nat := s.dims.scale.toNat

/-- The four bytes of destination pixel (X, Y) (R371, R372). -/
def upscaleBytes (s : State) (X Y : Nat) : List Byte :=
  if X / latScale s < workW s ∧ Y / latScale s < workH s then
    let c := cpx s.bufs.cbuf (X / latScale s) (Y / latScale s)
    [c.r, c.g, c.b, 255]
  else [0, 0, 0, 0]

/-- The writes of destination row Y (R371). -/
def upscaleWrites (Y : Nat) (s : State) : List PortWrite :=
  rowOf (fun X => ⟨s.snap.dstBase.toNat + 4 * (Y * latW s + X), upscaleBytes s X Y⟩) (latW s)

/-- `stage_upscale()` (R370). -/
def stageUpscale (s : State) : Flow := writingRows .upscale (latH s) upscaleWrites s

/-- The destination region (R373, R98). -/
def upscaleSize (s : State) : Nat := 4 * latW s * latH s

/-- UPSCALE (R370). -/
def execUpscale (s : State) : Result :=
  runCommand 0x08 (fun s => [checkSeq s.valid.cbuf, checkRange s.snap.dstBase (upscaleSize s)])
    (fun s => [⟨s.snap.dstBase.toNat, upscaleSize s⟩]) (fun s => thenComplete (stageUpscale s)) s

end Sys2Proof.Machine
end

