-- ==== Sys2Proof/Machine/Frame.lean ====
section
/-! DEFINITION. The commands of no single stage (40_commands.md): NOP, RUN_FRAME and the illegal command words
(30_encoding.md R123). -/

namespace Sys2Proof.Machine

/-- NOP (R170). -/
def execNop (s : State) : Result := runCommand 0x00 (fun _ => []) noRegions (fun s => thenComplete (.on s)) s

/-- An illegal command word (R123, 60_exceptions.md R402): accepted, it fails with ILLEGAL_CMD. -/
def execIllegalCmd (w : Word) (s : State) : Result :=
  runCommand w (fun _ => [⟨true, .illegalCmd, 0⟩]) noRegions (fun s => .on s) s

/-- The checks of RUN_FRAME after the zero-area test, in the order of R415. -/
def frameChecks (s : State) : List Check :=
  sampleChecks s
    ++ [checkRange s.snap.dstBase (sourceSize s), checkContrast (buildNeeded s) s, checkPscale s, checkPalette s]

/-- The stages of RUN_FRAME to the dispatch of the dither variant (R171). -/
def frameHead (s : State) : Flow :=
  ((((stageSample s).andThen betweenStages).andThen stageTonemap).andThen betweenStages).andThen
    fun s1 => .on (dispatchDither s1)

/-- The stages of RUN_FRAME after the dither stage (R171), and its completion. -/
def frameTail (s : State) : Flow :=
  thenComplete (((((stageDepth s).andThen betweenStages).andThen stagePalette).andThen betweenStages).andThen stageUpscale)

/-- RUN_FRAME (R171). It is accepted and runs to the dispatch of the dither variant, which is a step of its own; once
the dither stage has ended, the engine holds it at its fourth stage (R84) and it goes on from there. -/
def execRunFrame (s : State) : Result :=
  match s.phase with
  | .run _ .depth _ => (frameTail s).out
  | _ =>
    runCommand 0x01 (fun s => if zeroArea s then [] else frameChecks s)
      (fun s => if zeroArea s then [] else [sourceRegion s, ⟨s.snap.dstBase.toNat, sourceSize s⟩])
      (fun s => if zeroArea s then thenComplete (zeroAreaSample s) else frameHead s) s

end Sys2Proof.Machine
end

