-- ==== Sys2Proof/Machine/Threshold.lean ====
section
/-! DEFINITION. The threshold dithers (45_threshold_dither.md): ordered_matrix_gen, the lines and waveforms of
waveform_threshold, noise_gen and pattern_mask. -/

namespace Sys2Proof.Machine

/-- The common comparison (R300) with an integer threshold. -/
def maskNat (i : Byte) (thr : Nat) : Byte := if thr < i.toNat then 255 else 0

/-- The common comparison (R300) with a binary64 threshold. -/
def maskF (i : Byte) (thr : F64) : Byte := if fLt thr (fOfNat i.toNat) then 255 else 0

/-! ### Ordered matrices -/

/-- `Q[y][x]` of R301. -/
def bayerQ (x y : Nat) : Nat :=
  match y, x with
  | 0, 0 => 0
  | 0, _ => 2
  | _, 0 => 3
  | _, _ => 1

/-- `B(2^k)[y][x]` (R301). -/
def bayer : Nat → Nat → Nat → Nat
  | 0, _, _ => 0
  | k + 1, x, y => 4 * bayer k (x % 2 ^ k) (y % 2 ^ k) + bayerQ (x / 2 ^ k) (y / 2 ^ k)

/-- The threshold of ORD.BAYER for the size n = 2^k (R302), scaled by 256 div n² (R301). -/
def bayerScaled (k x y : Nat) : Nat := bayer k (x % 2 ^ k) (y % 2 ^ k) * (256 / (2 ^ k * 2 ^ k))

/-- The threshold of ORD.BAYER for any MSIZE (R302): 128 where the size has no matrix. -/
def bayerThr (msize : Byte) (x y : Nat) : Nat :=
  if msize.toNat = 2 then bayerScaled 1 x y
  else if msize.toNat = 4 then bayerScaled 2 x y
  else if msize.toNat = 8 then bayerScaled 3 x y
  else if msize.toNat = 16 then bayerScaled 4 x y
  else 128

/-- ORD.BAYER (R302). -/
def execOrdBayer (s : State) : Result := runPointwise (fun s x y i => maskNat i (bayerThr s.snap.msize x y)) s

/-- The threshold of ORD.KNOLL (R304): `KNOLL4[y mod 4][x mod 4] × 16`. -/
def knollThr (m : Knoll) (x y : Nat) : Nat := ((m.get (Fin.ofNat 4 y)).get (Fin.ofNat 4 x)).val * 16

/-- ORD.KNOLL (R304). -/
def execOrdKnoll (s : State) : Result := runPointwise (fun s x y i => maskNat i (knollThr s.plat.knoll4 x y)) s

/-! ### Procedural lines -/

/-- The line threshold at a coordinate c with period P (R305). -/
def lineThr (p c : Nat) : Nat := if 2 * (c % p) < p then 20 else 230

/-- LINES.H (R306): c = y. -/
def execLinesH (s : State) : Result := runPointwise (fun s _ y i => maskNat i (lineThr (patScale s) y)) s

/-- LINES.V (R307): c = x. -/
def execLinesV (s : State) : Result := runPointwise (fun s x _ i => maskNat i (lineThr (patScale s) x)) s

/-- LINES.D (R308): c = x + y. -/
def execLinesD (s : State) : Result := runPointwise (fun s x y i => maskNat i (lineThr (patScale s) (x + y))) s

/-! ### Noise fields -/

/-- The blue-noise hash (R309), for a sine. -/
def hashThr (sin : F64 → F64) (x y : Nat) : F64 :=
  fMod (fAbs (fMul (sin (fAdd (fMul (fOfNat x) fHashX) (fMul (fOfNat y) fHashY))) fHashScale)) f256

/-- NOISE.BLUE (R310). -/
def execNoiseBlue (s : State) : Result := runPointwise (fun _ x y i => maskF i (hashThr Config.sin64 x y)) s

/-- NOISE.WHITE (R311): the threshold is `next_rand() ×f 255.0`. -/
def execNoiseWhite (s : State) : Result := runRandom (fun r i => maskF i (fMul r f255)) s

/-- The comparison of NOISE.STIPPLE (R312), in place of R300's. -/
def stipple (r : F64) (i : Byte) : Byte := if fLt r (fDiv (fOfNat i.toNat) f255) then 255 else 0

/-- NOISE.STIPPLE (R312). -/
def execNoiseStipple (s : State) : Result := runRandom stipple s

/-- NOISE.VORONOI (R313): NOISE.STIPPLE, draw for draw. -/
def execNoiseVoronoi (s : State) : Result := runRandom stipple s

/-! ### Waveforms -/

/-- AXIS of a waveform (R131, R314). -/
inductive Axis where
  | x | y | radial
deriving DecidableEq, Repr

/-- SHAPE of a waveform (R131, R314). -/
inductive Shape where
  | sine | square
deriving DecidableEq, Repr

/-- The distance d of R314. -/
def waveDist (axis : Axis) (width height x y : Nat) : F64 :=
  match axis with
  | .x => fOfNat x
  | .y => fOfNat y
  | .radial =>
    let dx := fSub (fOfNat x) (fDiv (fOfNat width) f2)
    let dy := fSub (fOfNat y) (fDiv (fOfNat height) f2)
    fSqrt (fAdd (fMul dx dx) (fMul dy dy))

/-- The waveform threshold (R314), for a sine. -/
def waveThr (sin : F64 → F64) (shape : Shape) (p : Nat) (d : F64) : F64 :=
  let v := sin (fDiv (fMul fTwoPi d) (fOfNat p))
  match shape with
  | .sine => fAdd f127h (fMul f127h v)
  | .square => fAdd f127h (fMul f127h (if fLe f0 v then f1 else fMinus1))

/-- A waveform style (R314). -/
def runWave (shape : Shape) (axis : Axis) (s : State) : Result :=
  runPointwise
    (fun s x y i => maskF i (waveThr Config.sin64 shape (patScale s) (waveDist axis (workW s) (workH s) x y))) s

/-- WAVE.SIN_X (R315). -/
def execWaveSinX (s : State) : Result := runWave .sine .x s

/-- WAVE.SIN_Y (R316). -/
def execWaveSinY (s : State) : Result := runWave .sine .y s

/-- WAVE.SIN_R (R317). -/
def execWaveSinR (s : State) : Result := runWave .sine .radial s

/-- WAVE.SQR_X (R318). -/
def execWaveSqrX (s : State) : Result := runWave .square .x s

/-- WAVE.SQR_Y (R319). -/
def execWaveSqrY (s : State) : Result := runWave .square .y s

/-- WAVE.SQR_R (R320). -/
def execWaveSqrR (s : State) : Result := runWave .square .radial s

/-! ### Pattern masks -/

/-- The pattern thresholds (R321). -/
def patThr (on : Bool) : Nat := if on then 127 else 200

/-- PAT.CHECKER (R322). -/
def execPatChecker (s : State) : Result :=
  runPointwise (fun _ x y i => maskNat i (patThr (decide ((x + y) % 2 = 0)))) s

/-- PAT.GRID (R323). -/
def execPatGrid (s : State) : Result :=
  runPointwise
    (fun s x y i => maskNat i (patThr (decide (x % patScale s = 0) || decide (y % patScale s = 0)))) s

/-- PAT.RANDOM (R324): on when next_rand() < 0.5. -/
def execPatRandom (s : State) : Result := runRandom (fun r i => maskNat i (patThr (fLt r fHalf))) s

/-- PAT.GRADIENT (R325). -/
def execPatGradient (s : State) : Result :=
  runPointwise (fun s x y i => maskNat i (patThr (decide (x * y % (2 * patScale s) < patScale s)))) s

end Sys2Proof.Machine
end

