-- ==== Sys2Proof/Machine/Dispatch.lean ====
section
/-! DEFINITION. exec: one arm per constructor of Instr, each one call of its meaning. -/

namespace Sys2Proof.Machine

def exec (i : Instr) (s : State) : Host.Outcome State Fault Refusal :=
  match i with
  | .nop => Sys2Proof.Machine.execNop s
  | .runFrame => Sys2Proof.Machine.execRunFrame s
  | .buildLut => Sys2Proof.Machine.execBuildLut s
  | .sample => Sys2Proof.Machine.execSample s
  | .tonemap => Sys2Proof.Machine.execTonemap s
  | .dither => Sys2Proof.Machine.execDither s
  | .depth => Sys2Proof.Machine.execDepth s
  | .palette => Sys2Proof.Machine.execPalette s
  | .upscale => Sys2Proof.Machine.execUpscale s
  | .dumpIbuf => Sys2Proof.Machine.execDumpIbuf s
  | .dumpTbuf => Sys2Proof.Machine.execDumpTbuf s
  | .dumpMbuf => Sys2Proof.Machine.execDumpMbuf s
  | .dumpDbuf => Sys2Proof.Machine.execDumpDbuf s
  | .dumpCbuf => Sys2Proof.Machine.execDumpCbuf s
  | .illegalCmd w => Sys2Proof.Machine.execIllegalCmd w s
  | .edFloydSteinberg => Sys2Proof.Machine.execEdFloydSteinberg s
  | .edAtkinson => Sys2Proof.Machine.execEdAtkinson s
  | .edJjn => Sys2Proof.Machine.execEdJjn s
  | .edStucki => Sys2Proof.Machine.execEdStucki s
  | .edBurkes => Sys2Proof.Machine.execEdBurkes s
  | .edSierra => Sys2Proof.Machine.execEdSierra s
  | .edSierra2 => Sys2Proof.Machine.execEdSierra2 s
  | .edSierraLite => Sys2Proof.Machine.execEdSierraLite s
  | .ordBayer => Sys2Proof.Machine.execOrdBayer s
  | .ordKnoll => Sys2Proof.Machine.execOrdKnoll s
  | .linesH => Sys2Proof.Machine.execLinesH s
  | .linesV => Sys2Proof.Machine.execLinesV s
  | .linesD => Sys2Proof.Machine.execLinesD s
  | .noiseBlue => Sys2Proof.Machine.execNoiseBlue s
  | .noiseWhite => Sys2Proof.Machine.execNoiseWhite s
  | .noiseStipple => Sys2Proof.Machine.execNoiseStipple s
  | .noiseVoronoi => Sys2Proof.Machine.execNoiseVoronoi s
  | .waveSinX => Sys2Proof.Machine.execWaveSinX s
  | .waveSinY => Sys2Proof.Machine.execWaveSinY s
  | .waveSinR => Sys2Proof.Machine.execWaveSinR s
  | .waveSqrX => Sys2Proof.Machine.execWaveSqrX s
  | .waveSqrY => Sys2Proof.Machine.execWaveSqrY s
  | .waveSqrR => Sys2Proof.Machine.execWaveSqrR s
  | .patChecker => Sys2Proof.Machine.execPatChecker s
  | .patGrid => Sys2Proof.Machine.execPatGrid s
  | .patRandom => Sys2Proof.Machine.execPatRandom s
  | .patGradient => Sys2Proof.Machine.execPatGradient s
  | .vcOstromoukhov => Sys2Proof.Machine.execVcOstromoukhov s
  | .sfcRiemersma => Sys2Proof.Machine.execSfcRiemersma s
  | .passthrough code => Sys2Proof.Machine.execPassthrough code s

end Sys2Proof.Machine
end

