-- ==== Sys2Proof/Machine/Step.lean ====
section
/-! DEFINITION. One step (10_state.md R30 to R33): the engine, when it has something to decode, runs it; otherwise the
world outside acts. There is no program counter and no fetch from memory (R32): a command word comes from a host write
of CMD (40_commands.md R160) or from PEND_CMD (R169), a style code from the snapshot (43_dither_dispatch.md R252). -/

namespace Sys2Proof.Machine

/-- What the engine decodes next: the command word on its way into acceptance; SNAP.STYLE when a dither stage has
started (R252); the word of a running command at any other stage (R84). Nothing when it is IDLE. -/
def fetch (s : State) : Option Encoded :=
  match s.phase with
  | .idle => none
  | .fetch w => some (.cmd w)
  | .run _ .dither _ => some (.style s.snap.style)
  | .run w _ _ => some (.cmd w)

/-- The engine's next action, or this state when it is IDLE. -/
def runFetched (s : State) : Host.Outcome State Fault Refusal :=
  match fetch s with
  | some e => exec (decode e) s
  | none => .next s

/-- One step. A CMD write that finds the engine IDLE is accepted in the same step (R160). With the engine IDLE and
nothing to come from outside, nothing changes (60_exceptions.md R431). -/
def step (s : State) : Host.Outcome State Fault Refusal :=
  match s.phase with
  | .idle =>
    match s.script with
    | [] => .next s
    | i :: rest => runFetched (hostAct [] i { s with script := rest })
  | _ => runFetched s

/-- The state whose very next step decodes and runs the instruction of `nbits` bits `w`: a command word on its way
into acceptance, or the style code of a dither stage that DITHER (0x05) has started. -/
def State.withFetchWord (s : State) (nbits w : Nat) : State :=
  if nbits ≤ 8 then
    { s with phase := .run 0x05 .dither 0, snap := { s.snap with style := BitVec.ofNat 8 w } }
  else { s with phase := .fetch (BitVec.ofNat 32 w) }

end Sys2Proof.Machine
end

