-- ==== Sys2Proof/Safety.lean ====
section
/-! DEFINITION. What claims about the block are stated with: undisturbed runs, the states a command leaves when it
completes or fails, the conditions under which a frame's accesses go through, what every step keeps, and the spec's
own loops over a buffer, written as functions of coordinates and apart from the machine's lists. -/

namespace Sys2Proof.Machine

/-! ### Runs -/

/-- Nothing lands on a running command: the world outside has nothing to do and no word is pending. -/
abbrev Quiet (s : State) : Prop := s.script = [] ∧ s.status.pending = false

/-- Instructions one after another, each on the state the one before it left. -/
def runAll : List Instr → State → Result
  | [], s => .next s
  | i :: is, s =>
    match exec i s with
    | .next t => runAll is t
    | .fault r => .fault r
    | .refused r => .refused r

/-- The instructions that are command words (format CMD of 30_encoding.md R120). -/
def isCommand (i : Instr) : Bool :=
  match encode i with
  | .cmd _ => true
  | .style _ => false

/-- The commands that write frame memory (20_memory.md R91). -/
def writesFrame (i : Instr) : Bool :=
  match i with
  | .runFrame | .upscale | .dumpIbuf | .dumpTbuf | .dumpMbuf | .dumpDbuf | .dumpCbuf => true
  | _ => false

/-! ### How a command ends -/

/-- The state left by a command that completes and has no other effect (R161, R165, R169). -/
def afterCommand (s : State) : State :=
  { s with
    status := { s.status with done := true, err := false, pending := false }
    report := ⟨0, 0, 0⟩
    snap := s.cfg
    dimsBefore := s.dims
    phase := if s.status.pending then .fetch s.pendCmd else .idle
    diff := ⟨[], none⟩
    race := ⟨[], []⟩ }

/-- The state left by a command that fails with an error before it changes anything (60_exceptions.md R412, R413):
the state after acceptance and the report. -/
def afterError (k : ErrKind) (op : BitVec 4) (addr : Word) (s : State) : State :=
  { afterCommand s with
    status := { s.status with done := false, err := true, pending := false }
    report := ⟨errCode k, op, addr⟩ }

/-- The end of a dither stage of the running word `w` that left MBUF as `m` and RNG_STATE as `g` (43 R254): DITHER
completes (R259), RUN_FRAME is at its fourth stage (40_commands.md R171). -/
def ditherResult (w : Word) (m : List (List Byte)) (g : Word) (s : State) : State :=
  let t : State :=
    { s with
      bufs := { s.bufs with mbuf := m }
      valid := { s.valid with mbuf := true }
      diff := ⟨[], none⟩
      rngState := g }
  if decodeCmd w = .runFrame then { t with phase := .run w .depth 0 }
  else { t with status := { t.status with done := true }, phase := .idle, race := ⟨[], []⟩ }

/-! ### When a frame's accesses go through -/

/-- The source width, the source height and the scale of the live configuration (10_state.md R57, R59). -/
abbrev cfgW (s : State) : Nat := dimLo s.cfg.srcDim
abbrev cfgH (s : State) : Nat := dimHi s.cfg.srcDim
abbrev cfgScale (s : State) : Nat := s.cfg.scale.toNat

/-- The working dimensions the next SAMPLE stage latches (41_downsampler.md R201). -/
abbrev nextW (s : State) : Nat := max 1 (cfgW s / cfgScale s)
abbrev nextH (s : State) : Nat := max 1 (cfgH s / cfgScale s)

/-- The address of the source pixel of working cell (x, y) (R204). -/
abbrev pixelAddr (s : State) (x y : Nat) : Nat :=
  s.cfg.srcBase.toNat + 4 * (y * cfgScale s * cfgW s + x * cfgScale s)

/-- The source is no zero-area source (R202) and passes the checks of the SAMPLE stage (R203). -/
abbrev SourceFits (s : State) : Prop :=
  0 < cfgW s ∧ 0 < cfgH s ∧ 0 < cfgScale s ∧ nextW s ≤ s.plat.maxWW.toNat ∧ nextH s ≤ s.plat.maxWH.toNat
    ∧ s.cfg.srcBase.toNat + 4 * cfgW s * cfgH s ≤ 4294967296

/-- The source is ordinary memory (20_memory.md R98). -/
abbrev SourceOrdinary (s : State) : Prop := meetsDevice s ⟨s.cfg.srcBase.toNat, 4 * cfgW s * cfgH s⟩ = false

/-- The source is ordinary memory and the port takes the read of every sampled pixel (60_exceptions.md R410). -/
abbrev SourceReadable (s : State) : Prop :=
  SourceOrdinary s ∧ ∀ x, x < nextW s → ∀ y, y < nextH s → refuses s (pixelAddr s x y) 4 .read = false

/-- `count` writes of `width` bytes each, packed from `base` on, lie in frame memory (R406) and the port takes them. -/
abbrev WritesGo (s : State) (base count width : Nat) : Prop :=
  base + width * count ≤ 4294967296 ∧ ∀ k, k < count → refuses s (base + width * k) width .write = false

/-- The same for the destination of the next command, which is ordinary memory. -/
abbrev DestinationTakes (s : State) (count width : Nat) : Prop :=
  WritesGo s s.cfg.dstBase.toNat count width ∧ meetsDevice s ⟨s.cfg.dstBase.toNat, width * count⟩ = false

/-- The LUT holds the table of the live tone registers (42_tone_curve_lut.md R223). -/
abbrev lutFits (s : State) : Prop := s.lut.built = true ∧ s.lut.key = s.cfg.tone

/-- A contrast that a LUT build rejects (R221). -/
abbrev pole (s : State) : Prop := 259 ≤ s.cfg.tone.contrast.toInt

/-- The LUT a command that needs it uses (R223). -/
def nextLut (s : State) : Lut := if lutFits s then s.lut else ⟨lutTable s.cfg.tone, true, s.cfg.tone⟩

/-- Every check of RUN_FRAME passes on the live configuration (60_exceptions.md R415) and its accesses go
through. -/
abbrev FrameRuns (s : State) : Prop :=
  SourceFits s ∧ SourceReadable s ∧ DestinationTakes s (cfgW s * cfgH s) 4 ∧ (lutFits s ∨ ¬pole s)
    ∧ 0 < s.cfg.pscale.toNat ∧ 1 ≤ s.cfg.palCount.toNat ∧ s.cfg.palCount.toNat ≤ 16

/-- RUN_FRAME is launched: every check passes and its regions are ordinary memory. Whether the port takes its accesses
is not said. -/
abbrev FrameLaunches (s : State) : Prop :=
  SourceFits s ∧ SourceOrdinary s ∧ s.cfg.dstBase.toNat + 4 * cfgW s * cfgH s ≤ 4294967296
    ∧ meetsDevice s ⟨s.cfg.dstBase.toNat, 4 * cfgW s * cfgH s⟩ = false ∧ (lutFits s ∨ ¬pole s)
    ∧ 0 < s.cfg.pscale.toNat ∧ 1 ≤ s.cfg.palCount.toNat ∧ s.cfg.palCount.toNat ≤ 16

/-- The engine is not between the two halves of a RUN_FRAME. -/
abbrev NotMidFrame (s : State) : Prop := ∀ w row, s.phase ≠ .run w .depth row

/-- The opcode of a command word (30_encoding.md R121). -/
def opcodeOf (i : Instr) : BitVec 4 :=
  match encode i with
  | .cmd w => w.extractLsb' 0 4
  | .style _ => 0

/-- The table of 60_exceptions.md R415, row by row: the error that the precheck of a command reports, with its
address; none when every check passes. -/
def tableError (i : Instr) (s : State) : Option (ErrKind × Word) :=
  let zero := cfgW s = 0 ∨ cfgH s = 0
  let tooWide := s.plat.maxWW.toNat < nextW s ∨ s.plat.maxWH.toNat < nextH s
  let passes (base : Word) (size : Nat) := 4294967296 < base.toNat + size
  let palette := s.cfg.palCount.toNat = 0 ∨ 16 < s.cfg.palCount.toNat
  match i with
  | .illegalCmd _ => some (.illegalCmd, 0)
  | .nop => none
  | .runFrame =>
    if zero then none
    else if cfgScale s = 0 then some (.cfgScale, 0)
    else if tooWide then some (.cfgDim, 0)
    else if passes s.cfg.srcBase (4 * cfgW s * cfgH s) then some (.cfgRange, s.cfg.srcBase)
    else if passes s.cfg.dstBase (4 * cfgW s * cfgH s) then some (.cfgRange, s.cfg.dstBase)
    else if ¬lutFits s ∧ pole s then some (.cfgContrast, 0)
    else if s.cfg.pscale = 0 then some (.cfgPscale, 0)
    else if palette then some (.cfgPalette, 0)
    else none
  | .buildLut => if pole s then some (.cfgContrast, 0) else none
  | .sample =>
    if zero then none
    else if cfgScale s = 0 then some (.cfgScale, 0)
    else if tooWide then some (.cfgDim, 0)
    else if passes s.cfg.srcBase (4 * cfgW s * cfgH s) then some (.cfgRange, s.cfg.srcBase)
    else none
  | .tonemap =>
    if s.valid.ibuf = false then some (.seq, 0)
    else if ¬lutFits s ∧ pole s then some (.cfgContrast, 0)
    else none
  | .dither =>
    if s.valid.tbuf = false then some (.seq, 0) else if s.cfg.pscale = 0 then some (.cfgPscale, 0) else none
  | .depth => if s.valid.mbuf = false then some (.seq, 0) else none
  | .palette =>
    if s.valid.dbuf = false then some (.seq, 0) else if palette then some (.cfgPalette, 0) else none
  | .upscale =>
    if s.valid.cbuf = false then some (.seq, 0)
    else if passes s.cfg.dstBase (4 * dimLo s.dims.src * dimHi s.dims.src) then some (.cfgRange, s.cfg.dstBase)
    else none
  | .dumpIbuf => tableDump s.valid.ibuf 1
  | .dumpTbuf => tableDump s.valid.tbuf 1
  | .dumpMbuf => tableDump s.valid.mbuf 1
  | .dumpDbuf => tableDump s.valid.dbuf 1
  | .dumpCbuf => tableDump s.valid.cbuf 3
  | _ => none
where
  /-- The column of DUMP for a buffer of `e` bytes per element (40_commands.md R172). -/
  tableDump (valid : Bool) (e : Nat) : Option (ErrKind × Word) :=
    if valid = false then some (.seq, 0)
    else if 4294967296 < s.cfg.dstBase.toNat + e * workW s * workH s then some (.cfgRange, s.cfg.dstBase)
    else none

/-- The source and destination regions of a command's launch (20_memory.md R98): those of the accesses it would make. -/
def launchRegions (i : Instr) (s : State) : List Region :=
  let source : Region := ⟨s.cfg.srcBase.toNat, 4 * cfgW s * cfgH s⟩
  let destination (size : Nat) : Region := ⟨s.cfg.dstBase.toNat, size⟩
  let zero := cfgW s = 0 ∨ cfgH s = 0
  match i with
  | .sample => if zero then [] else [source]
  | .runFrame => if zero then [] else [source, destination (4 * cfgW s * cfgH s)]
  | .upscale => [destination (4 * dimLo s.dims.src * dimHi s.dims.src)]
  | .dumpIbuf | .dumpTbuf | .dumpMbuf | .dumpDbuf => [destination (workW s * workH s)]
  | .dumpCbuf => [destination (3 * workW s * workH s)]
  | _ => []

/-- An address lies in a region. -/
abbrev inRegion (r : Region) (a : Nat) : Prop := r.base ≤ a ∧ a < r.base + r.len

/-- Which bits of a register a host write sets (10_state.md R48, R51, R56 to R72); none for CMD, STATUS and the
read-only registers. -/
def writeMask : Reg → Option Word
  | .irqEn => some 0x00000007
  | .ctrl => some 0x00000001
  | .srcBase => some 0xFFFFFFFC
  | .srcDim => some 0xFFFFFFFF
  | .dstBase => some 0xFFFFFFFC
  | .scale => some 0x0000FFFF
  | .contrast => some 0x0000FFFF
  | .midtone => some 0x0000FFFF
  | .highlight => some 0x0000FFFF
  | .thresh => some 0x000000FF
  | .invert => some 0x00000001
  | .style => some 0x000000FF
  | .msize => some 0x000000FF
  | .pscale => some 0x0000FFFF
  | .bleed => some 0x0000FFFF
  | .depth => some 0x0000FFFF
  | .rngSeed => some 0xFFFFFFFF
  | .palCount => some 0x000000FF
  | .pal _ => some 0x00FFFFFF
  | .id | .version | .caps0 | .caps1 | .cmd | .status | .errCode | .errAddr => none
  | .bufValid | .workDim | .latSrcDim | .latScale | .lutWin _ => none

/-- A DUMP of a buffer of `e` bytes per element, byte k of element (x, y) being `b x y k`, completes and writes the
bytes packed at DST_BASE, and no other byte (40_commands.md R172). -/
abbrev DumpWrites (i : Instr) (e : Nat) (b : Nat → Nat → Nat → Byte) (s : State) : Prop :=
  DestinationTakes s (e * workW s * workH s) 1 →
    ∃ m, exec i s = .next { afterCommand s with mem := m }
      ∧ (∀ x y k, x < workW s → y < workH s → k < e →
          m.read (s.cfg.dstBase.toNat + e * (y * workW s + x) + k) = b x y k)
      ∧ ∀ a, a < s.cfg.dstBase.toNat ∨ s.cfg.dstBase.toNat + e * workW s * workH s ≤ a → m.read a = s.mem.read a

/-- A DUMP of a buffer of `e` bytes per element, byte k of element (x, y) being `b x y k`, with its first refused write
at byte `f` of the destination: it fails with BUS and that byte's address; the bytes before it are written and no
other, and nothing else changes (60_exceptions.md R410). -/
abbrev DumpBus (i : Instr) (e : Nat) (b : Nat → Nat → Nat → Byte) (s : State) : Prop :=
  ∀ f, s.cfg.dstBase.toNat + e * workW s * workH s ≤ 4294967296 →
    meetsDevice s ⟨s.cfg.dstBase.toNat, e * workW s * workH s⟩ = false → f < e * workW s * workH s →
    refuses s (s.cfg.dstBase.toNat + f) 1 .write = true →
    (∀ k, k < f → refuses s (s.cfg.dstBase.toNat + k) 1 .write = false) →
    ∃ m, exec i s = .next { afterError .bus 9 (BitVec.ofNat 32 (s.cfg.dstBase.toNat + f)) s with mem := m }
      ∧ (∀ x y k, x < workW s → k < e → e * (y * workW s + x) + k < f →
          m.read (s.cfg.dstBase.toNat + e * (y * workW s + x) + k) = b x y k)
      ∧ ∀ a, a < s.cfg.dstBase.toNat ∨ s.cfg.dstBase.toNat + f ≤ a → m.read a = s.mem.read a

/-- DBUF as the DEPTH stage of a running command leaves it (46_depth_shadow.md R340), and CBUF as the PALETTE stage
then leaves it (47_palette_interp.md R350). -/
def tailDbuf (s : State) : List (List Byte) :=
  (List.range (workH s)).map fun y => (List.range (workW s)).map fun p =>
    if 0 < s.snap.depth.toNat ∧ p + s.snap.depth.toNat < workW s ∧ px s.bufs.mbuf (p + s.snap.depth.toNat) y = 0
    then 0 else px s.bufs.mbuf p y
def tailCbuf (s : State) : List (List Rgb) :=
  (List.range (workH s)).map fun y => (List.range (workW s)).map fun x =>
    palMap s.snap.pal s.snap.palCount.toNat (px (tailDbuf s) x y)

/-- Byte k of destination pixel (X, Y) of the UPSCALE stage, from CBUF and the latched dimensions (48_upsampler.md
R371, R372). -/
def outByte (cbuf : List (List Rgb)) (width height scale X Y k : Nat) : Byte :=
  if X / scale < width ∧ Y / scale < height then
    let c := cpx cbuf (X / scale) (Y / scale)
    match k with
    | 0 => c.r
    | 1 => c.g
    | 2 => c.b
    | _ => 255
  else 0

/-- The word `w` is written to CMD at landing point `m` of the step, the points counted from 0 (log entry 7). -/
def wordAt (m : Nat) (w : Word) : List HostItem := List.replicate m .pass ++ [.write 0x010 4 w]

/-- What abandonment for a word leaves of the command's own state (40_commands.md R168, R169): the word is on its way
into acceptance, every buffer is invalid, PREEMPT is set, and of the status `st` nothing else changes. -/
structure AbandonedFor (w : Word) (st : Status) (t : State) : Prop where
  phase : t.phase = .fetch w
  valid : t.valid = Valid.none
  status : t.status = { st with preempt := true, pending := false }
  diff : t.diff = ⟨[], none⟩
  script : t.script = []

/-- `i` is abandoned at the row boundary after its row Y when the word lands in that row: `head` landing points come
before row 0 and every row has `points` of them. `post` says what else holds then. -/
abbrev AbandonsAfterRow (i : Instr) (s : State) (head points rows : Nat) (post : Nat → State → Prop) : Prop :=
  ∀ (w : Word) (m Y : Nat), s.script = wordAt m w → Y + 1 < rows → head + Y * points ≤ m →
    m < head + (Y + 1) * points →
    ∃ t, exec i s = .next t ∧ AbandonedFor w { s.status with done := false, err := false } t ∧ post Y t

/-- The first `n` rows of the destination of UPSCALE (`width` pixels each, from `base`) are written from CBUF, and no
other byte of memory (20_memory.md R101). -/
abbrev PixelRowsWritten (s t : State) (cbuf : List (List Rgb)) (base width n : Nat) : Prop :=
  (∀ X Y k, X < width → Y < n → k < 4 →
      t.mem.read (base + 4 * (Y * width + X) + k) = outByte cbuf (workW s) (workH s) s.dims.scale.toNat X Y k)
    ∧ ∀ a, a < base ∨ base + 4 * (n * width) ≤ a → t.mem.read a = s.mem.read a

/-- A DUMP of a buffer of `e` bytes per element is abandoned after the row in which the word lands, with the bytes of
the rows so far written and no other, the LUT and the random state as they were (R172, 20_memory.md R101). -/
abbrev DumpAbandons (i : Instr) (e : Nat) (b : Nat → Nat → Nat → Byte) (s : State) : Prop :=
  DestinationTakes s (e * workW s * workH s) 1 →
    AbandonsAfterRow i s 1 (e * workW s + 2) (workH s) fun Y t =>
      t.lut = s.lut ∧ t.rngState = s.rngState ∧ t.dims = s.dims ∧ (∀ x y k, x < workW s → y ≤ Y → k < e →
          t.mem.read (s.cfg.dstBase.toNat + e * (y * workW s + x) + k) = b x y k)
        ∧ ∀ a, a < s.cfg.dstBase.toNat ∨ s.cfg.dstBase.toNat + e * ((Y + 1) * workW s) ≤ a →
            t.mem.read a = s.mem.read a

/-- The block right after an assertion of reset, with `rest` still to come from outside (70_reset_and_hazards.md R440,
R441). -/
structure AfterReset (rest : List HostItem) (t : State) : Prop where
  phase : t.phase = .idle
  status : t.status = ⟨false, false, false, false, false, false⟩
  report : t.report = ⟨0, 0, 0⟩
  cfg : t.cfg = Cfg.reset
  irqEn : t.irqEn = ⟨false, false, false⟩
  valid : t.valid = Valid.none
  dims : t.dims = ⟨0, 0, 0⟩
  lutBuilt : t.lut.built = false
  rngState : t.rngState = 1
  diff : t.diff = ⟨[], none⟩
  inReset : t.inReset = true
  script : t.script = rest

/-- Reset at any point of row Y of the rows that write the destination at `base`: `head` landing points come before row
0, a row makes `count` writes of `u` bytes each, byte k of write X of row y being `b X y k`, and reset lands after `j`
of the row's writes, with `n` more performed and one in flight. The writes of the rows before and those of the row are
performed, each byte of the one in flight holds its new or its old value, and no other byte of memory changes
(20_memory.md R101, 70_reset_and_hazards.md R442); the block is as after reset. The points and the item are the model's
(log entries 7 and 22). -/
abbrev ResetInRow (i : Instr) (s : State) (head base count height u : Nat) (b : Nat → Nat → Nat → Byte) : Prop :=
  ∀ (Y j n : Nat) (torn : BitVec 4) (rest : List HostItem), Y < height → j ≤ count + 1 →
    (s.status.pending = true → Y = 0) →
    s.script = List.replicate (head + Y * (count + 2) + j) .pass ++ .resetOn n torn :: rest →
    ∃ t, exec i s = .next t ∧ AfterReset rest t
      ∧ (∀ X y k, X < count → y < height → k < u →
          t.mem.read (base + u * (y * count + X) + k)
            = if y < Y ∨ y = Y ∧ (X < j + n ∨ X = j + n ∧ torn.getLsbD k = true) then b X y k
              else s.mem.read (base + u * (y * count + X) + k))
      ∧ ∀ a, a < base ∨ base + u * (height * count) ≤ a → t.mem.read a = s.mem.read a

/-- Reset in a row of a DUMP of a buffer of `e` bytes per element, byte k of element (x, y) being `b x y k`: each byte is
a write of its own (40_commands.md R172). -/
abbrev DumpResets (i : Instr) (e : Nat) (b : Nat → Nat → Nat → Byte) (s : State) : Prop :=
  DestinationTakes s (e * workW s * workH s) 1 →
    ResetInRow i s 1 s.cfg.dstBase.toNat (e * workW s) (workH s) 1 fun X y _ => b (X / e) y (X % e)

/-- The variants that draw from the random source (43_dither_dispatch.md R257). -/
def draws (i : Instr) : Bool := decide (i ∈ ([.noiseWhite, .noiseStipple, .noiseVoronoi, .patRandom] : List Instr))

/-- The taps of a kernel style that the platform's table gives it (44_error_diffusion.md R272). -/
def tapsOf (i : Instr) (s : State) : List Tap :=
  match i with
  | .edFloydSteinberg => tapsFloydSteinberg
  | .edAtkinson => s.plat.kernels.atkinson
  | .edJjn => s.plat.kernels.jjn
  | .edStucki => s.plat.kernels.stucki
  | .edBurkes => s.plat.kernels.burkes
  | .edSierra => s.plat.kernels.sierra
  | .edSierra2 => s.plat.kernels.sierra2
  | .edSierraLite => s.plat.kernels.sierraLite
  | _ => []

/-- Taps as triples (dx, dy, weight). -/
def tapTriples (ts : List Tap) : List (Int × Int × Int) := ts.map fun t => (t.dx, (t.dy : Int), t.wt)

/-- `k` steps, stopping at the first fault or refusal. -/
def steps : Nat → State → Result
  | 0, s => .next s
  | k + 1, s =>
    match step s with
    | .next t => steps k t
    | .fault r => .fault r
    | .refused r => .refused r

/-! ### What every step keeps -/

/-- The random state and the seeds are never 0 (10_state.md R70, R82). -/
abbrev RngOk (s : State) : Prop := s.rngState ≠ 0 ∧ s.cfg.rngSeed ≠ 0 ∧ s.snap.rngSeed ≠ 0

/-- The base addresses are multiples of 4 (10_state.md R56, R58; 20_memory.md R95). -/
abbrev BasesOk (s : State) : Prop :=
  s.cfg.srcBase.toNat % 4 = 0 ∧ s.cfg.dstBase.toNat % 4 = 0 ∧ s.snap.srcBase.toNat % 4 = 0
    ∧ s.snap.dstBase.toNat % 4 = 0

/-- A built LUT is the table of its key, and its key is no rejected contrast (42_tone_curve_lut.md R220, R223). -/
abbrev LutOk (s : State) : Prop :=
  s.lut.built = true → s.lut.ram = lutTable s.lut.key ∧ s.lut.key.contrast.toInt < 259

/-- ACC and SERP_E hold no value between steps (10_state.md R83). -/
abbrev DiffuserOk (s : State) : Prop := s.diff = ⟨[], none⟩

/-- A list of rows has the working dimensions (10_state.md R76). -/
abbrev Shaped {α : Type} (s : State) (b : List (List α)) : Prop :=
  b.length = workH s ∧ ∀ r ∈ b, r.length = workW s

/-- The valid buffers form one chain from one SAMPLE and have the dimensions in WORK_DIM (10_state.md R77), and a
command between two of its steps is DITHER or RUN_FRAME at a stage whose input is valid (R84). -/
structure BuffersOk (s : State) : Prop where
  chain : (s.valid.cbuf = true → s.valid.dbuf = true) ∧ (s.valid.dbuf = true → s.valid.mbuf = true)
    ∧ (s.valid.mbuf = true → s.valid.tbuf = true) ∧ (s.valid.tbuf = true → s.valid.ibuf = true)
  shapes : (s.valid.ibuf = true → Shaped s s.bufs.ibuf) ∧ (s.valid.tbuf = true → Shaped s s.bufs.tbuf)
    ∧ (s.valid.mbuf = true → Shaped s s.bufs.mbuf) ∧ (s.valid.dbuf = true → Shaped s s.bufs.dbuf)
    ∧ (s.valid.cbuf = true → Shaped s s.bufs.cbuf)
  running : ∀ w stage row, s.phase = .run w stage row →
    stage = .dither ∧ s.valid.tbuf = true ∧ (decodeCmd w = .dither ∨ decodeCmd w = .runFrame)
      ∨ stage = .depth ∧ s.valid.mbuf = true ∧ decodeCmd w = .runFrame

/-- The flags and the report (10_state.md R41 to R50): DONE and ERR exclude each other and are 0 with a clear report
while a command runs; DONE goes with a clear report, ERR with an error code; reserved codes are never written (60
R401); a word is pending only while BUSY reads 1; while reset is asserted the engine is IDLE (70 R440). -/
structure FlagsOk (s : State) : Prop where
  exclusive : ¬(s.status.done = true ∧ s.status.err = true)
  running : ∀ w stage row, s.phase = .run w stage row →
    s.status.done = false ∧ s.status.err = false ∧ s.report = ⟨0, 0, 0⟩ ∧ s.inReset = false
  done : s.status.done = true → s.report = ⟨0, 0, 0⟩
  err : s.status.err = true → s.report.code ≠ 0
  codes : s.report.code.toNat ≤ 9
  pending : s.status.pending = true → busy s = true
  reset : s.inReset = true → s.phase = .idle ∧ s.cfg = Cfg.reset ∧ irq s = false

/-! ### The spec's loops over a buffer -/

/-- The rows of a buffer whose element at (x, y) is `f x y` (00_scope.md R20). -/
def rows {α : Type} (width height : Nat) (f : Nat → Nat → α) : List (List α) :=
  (List.range height).map fun y => (List.range width).map fun x => f x y

/-- The elements in raster order (R20). -/
def raster (width height : Nat) : List (Nat × Nat) :=
  (List.range height).flatMap fun y => (List.range width).map fun x => (x, y)

/-- A value at one place of a buffer. -/
def atPlace {α : Type} (f : Nat → Nat → α) (x y : Nat) (v : α) : Nat → Nat → α :=
  fun x' y' => if x' = x ∧ y' = y then v else f x' y'

/-- One share (dx, dy, amount) of the error of (x, y), added to the accumulator where it falls inside the buffer
(44_error_diffusion.md R270). -/
def spread (width height x y : Nat) (acc : Nat → Nat → F64) (share : Int × Int × F64) : Nat → Nat → F64 :=
  let tx := (x : Int) + share.1
  let ty := (y : Int) + share.2.1
  if 0 ≤ tx ∧ tx < width ∧ 0 ≤ ty ∧ ty < height then
    atPlace acc tx.toNat ty.toNat (fAdd (acc tx.toNat ty.toNat) share.2.2)
  else acc

/-- `255 if v > 127.0 else 0` (R270). -/
def onOff (v : F64) : Byte := if fLt f127 v then 255 else 0

/-- One element of a diffuser (R270, R283): MBUF and ACC after it. -/
def diffuseAt (shares : Byte → F64 → List (Int × Int × F64)) (tbuf : Nat → Nat → Byte) (width height : Nat)
    (st : (Nat → Nat → Byte) × (Nat → Nat → F64)) (p : Nat × Nat) : (Nat → Nat → Byte) × (Nat → Nat → F64) :=
  let old := st.2 p.1 p.2
  (atPlace st.1 p.1 p.2 (onOff old),
    (shares (tbuf p.1 p.2) (fSub old (fOfNat (onOff old).toNat))).foldl (spread width height p.1 p.2) st.2)

/-- MBUF as the diffuser with these shares leaves it, in raster order, from TBUF (R270, R283). -/
def diffused (shares : Byte → F64 → List (Int × Int × F64)) (tbuf : Nat → Nat → Byte) (width height : Nat) :
    Nat → Nat → Byte :=
  ((raster width height).foldl (diffuseAt shares tbuf width height)
    (fun _ _ => 0, fun x y => fOfNat (tbuf x y).toNat)).1

/-- The shares of the kernel diffuser with divisor `div` and taps (dx, dy, wt) (R270). -/
def tapShares (div : Nat) (taps : List (Int × Int × Int)) (bleed : F64) (_i : Byte) (e : F64) : List (Int × Int × F64) :=
  taps.map fun t => (t.1, t.2.1, fDiv (fMul (fMul e bleed) (fOfInt t.2.2)) (fOfNat div))

/-- The order of the serpentine scan (44_error_diffusion.md R284). -/
def serpentine (width height : Nat) : List (Nat × Nat) :=
  (List.range height).flatMap fun y =>
    let row := (List.range width).map fun x => (x, y)
    if y % 2 = 0 then row else row.reverse

/-- One element of the serpentine diffuser (R285): MBUF and SERP_E after it. -/
def serpAt (damp : F64) (tbuf : Nat → Nat → Byte) (st : (Nat → Nat → Byte) × F64) (p : Nat × Nat) :
    (Nat → Nat → Byte) × F64 :=
  let v := fAdd (fOfNat (tbuf p.1 p.2).toNat) st.2
  (atPlace st.1 p.1 p.2 (onOff v), fMul (fSub v (fOfNat (onOff v).toNat)) damp)

/-- MBUF as the serpentine diffuser leaves it (R285). -/
def serpentined (damp : F64) (tbuf : Nat → Nat → Byte) (width height : Nat) : Nat → Nat → Byte :=
  ((serpentine width height).foldl (serpAt damp tbuf) (fun _ _ => 0, f0)).1

/-- RNG_STATE after `n` draws (43_dither_dispatch.md R256). -/
def drawn (n : Nat) (g : Word) : Word := xorshift^[n] g

end Sys2Proof.Machine
end

