-- ==== Sys2Proof/Certificates/Slice0/Obligations.lean ====
section
/-! DEFINITION. The statements for the provers. Where a statement speaks of a quiet run (`Quiet`), nothing from
outside lands on the command and no word is pending; what lands is the subject of the statements on host accesses, on
abandonment and on reset. -/

open Sys2Proof Sys2Proof.Machine

/-! ### Decoding -/

/-- 30_encoding.md sections 1 and 2: decoding the encoding of a well-formed instruction gives it back. -/
def Obligations.DecodeOfEncode : Prop := ∀ i : Instr, i.wellFormed = true → decode (encode i) = i

/-- 30_encoding.md sections 1 and 2: every 32-bit word and every 8-bit code decodes to a well-formed instruction whose
encoding it is, so each has one meaning. -/
def Obligations.EncodeOfDecode : Prop := ∀ e : Encoded, encode (decode e) = e ∧ (decode e).wellFormed = true

/-- The words of 95_test_vectors.md CM1 to CM7, and a style code of each family of R131. -/
def Obligations.DecodeWords : Prop :=
  [0x00, 0x01, 0x02, 0x03, 0x04, 0x05, 0x06, 0x07, 0x08].map (fun w : Word => decode (.cmd w))
      = [.nop, .runFrame, .buildLut, .sample, .tonemap, .dither, .depth, .palette, .upscale]
    ∧ [0x09, 0x19, 0x29, 0x39, 0x49].map (fun w : Word => decode (.cmd w))
      = [.dumpIbuf, .dumpTbuf, .dumpMbuf, .dumpDbuf, .dumpCbuf]
    ∧ (∀ w ∈ [(0x0A : Word), 0x0F, 0x59, 0x79, 0x11, 0x71, 0x80, 0x80000001], decode (.cmd w) = .illegalCmd w)
    ∧ [0x10, 0x20, 0x30, 0x40, 0x52, 0x56, 0x63, 0x70, 0x80].map (fun c : Byte => decode (.style c))
      = [.edFloydSteinberg, .ordBayer, .linesH, .noiseBlue, .waveSinR, .waveSqrR, .patGradient, .vcOstromoukhov,
          .sfcRiemersma]
    ∧ decode (.style 0xFF) = .passthrough 0xFF
    ∧ decodeTableWord 32 0x49 = some .dumpCbuf ∧ decodeTableWord 8 0x49 = some (.passthrough 0x49)

/-- R123 and R402: which words are illegal; an illegal word, once accepted, fails with ILLEGAL_CMD, its low four bits
in ERR_CODE.OP, and changes nothing else. -/
def Obligations.IllegalWords : Prop :=
  ∀ w : Word,
    (decode (.cmd w) = .illegalCmd w ↔
      10 ≤ (w.extractLsb' 0 4).toNat ∨ w.extractLsb' 7 25 ≠ 0
        ∨ w.extractLsb' 0 4 ≠ 9 ∧ w.extractLsb' 4 3 ≠ 0
        ∨ w.extractLsb' 0 4 = 9 ∧ 5 ≤ (w.extractLsb' 4 3).toNat)
    ∧ ∀ s : State, s.script = [] →
        exec (.illegalCmd w) s = .next (afterError .illegalCmd (w.extractLsb' 0 4) 0 s)

/-- R132: which style codes are unassigned; the start of the dither stage sets STYLE_UNK for exactly those, and a
DITHER with one of them raises no error and runs the passthrough. -/
def Obligations.UnassignedStyles : Prop :=
  ∀ c : Byte,
    (decode (.style c) = .passthrough c ↔
      c ≤ 0x0F ∨ 0x18 ≤ c ∧ c ≤ 0x1F ∨ 0x22 ≤ c ∧ c ≤ 0x2F ∨ 0x33 ≤ c ∧ c ≤ 0x3F ∨ 0x44 ≤ c ∧ c ≤ 0x4F ∨ c = 0x53
        ∨ 0x57 ≤ c ∧ c ≤ 0x5F ∨ 0x64 ≤ c ∧ c ≤ 0x6F ∨ 0x71 ≤ c ∧ c ≤ 0x7F ∨ 0x81 ≤ c)
    ∧ (∀ s : State, s.snap.style = c →
        ((startDither s).status.styleUnk = true ↔ decode (.style c) = .passthrough c))
    ∧ ∀ s : State, Quiet s → s.cfg.style = c → s.valid.tbuf = true → s.cfg.pscale ≠ 0 →
        decode (.style c) = .passthrough c →
        ∃ t, runAll [.dither, decode (.style c)] s = .next t ∧ t.status.done = true ∧ t.status.err = false
          ∧ t.status.styleUnk = true ∧ t.report = ⟨0, 0, 0⟩
          ∧ t.bufs.mbuf = rows (workW s) (workH s) fun x y => px s.bufs.tbuf x y

/-! ### Steps and acceptance -/

/-- A step runs the decoded instruction: the word on its way into acceptance, the style code of a dither stage that
has started, the running word at any other stage; so does the step after `withFetchWord`. The phases that hold a word
on its way into acceptance and a stage, the dispatch of a variant as a step of its own, and `withFetchWord` are the
model's choices (log entries 13, 12 and 11); the sections cited say which word and which code are decoded. -/
def Obligations.StepRunsDecoded : Prop :=
  (∀ (s : State) (w : Word), s.phase = .fetch w → step s = exec (decode (.cmd w)) s)
    ∧ (∀ (s : State) (w : Word) (row : Nat), s.phase = .run w .dither row →
        step s = exec (decode (.style s.snap.style)) s)
    ∧ (∀ (s : State) (w : Word) (stage : Stage) (row : Nat), s.phase = .run w stage row → stage ≠ .dither →
        step s = exec (decode (.cmd w)) s)
    ∧ (∀ (s : State) (w : Nat), w < 4294967296 → ∃ i, decodeTableWord 32 w = some i
        ∧ step (s.withFetchWord 32 w) = exec i (s.withFetchWord 32 w))
    ∧ ∀ (s : State) (w : Nat), w < 256 → ∃ i, decodeTableWord 8 w = some i
        ∧ step (s.withFetchWord 8 w) = exec i (s.withFetchWord 8 w)

/-- R160: a write of CMD with the engine IDLE is accepted in the same step; with the engine RUNNING it makes the word
pending (and replaces any other, R167); nothing else starts the engine. -/
def Obligations.CommandFromCmdWrite : Prop :=
  (∀ (s : State) (w : Word) (rest : List HostItem), s.phase = .idle → s.inReset = false →
      s.script = .write 0x010 4 w :: rest →
      step s = exec (decode (.cmd w)) { s with script := rest, phase := .fetch w })
    ∧ (∀ (s : State) (w : Word), busy s = true → s.inReset = false →
        portWrite 0x010 4 w s = { s with pendCmd := w, status := { s.status with pending := true } })
    ∧ ∀ (s t : State) (i : HostItem) (rest : List HostItem), s.phase = .idle → s.script = i :: rest →
        (∀ w, i ≠ .write 0x010 4 w) → step s = .next t → t.phase = .idle

/-- The table of R415, for every command: the first check of its column that fails is the one reported, in a state
that is otherwise the one after acceptance; a command whose checks all pass reports no error but BUS; RUN_FRAME on a
zero-area source completes whatever its later checks say. -/
def Obligations.PrecheckOrder : Prop :=
  ∀ (i : Instr) (s : State), isCommand i = true → s.script = [] → NotMidFrame s →
    (∀ k a, tableError i s = some (k, a) → exec i s = .next (afterError k (opcodeOf i) a s))
      ∧ (tableError i s = none → ∀ t, exec i s = .next t → t.report.code = 0 ∨ t.report.code = 9)
      ∧ (i = .runFrame → cfgW s = 0 ∨ cfgH s = 0 →
          ∃ t, exec i s = .next t ∧ t.status.done = true ∧ t.status.err = false ∧ t.report = ⟨0, 0, 0⟩)

/-! ### What the commands do -/

/-- 40_commands.md section 2: NOP completes and does nothing else. -/
def Obligations.NopOnlyCompletes : Prop := ∀ s : State, s.script = [] → exec .nop s = .next (afterCommand s)

/-- 42_tone_curve_lut.md: BUILD_LUT builds the LUT from the snapshot's tone tuple, records the key and completes; it has
no row boundary, so a pending word does not abandon it. Entry i of the LUT built from a tuple is the arithmetic of
section 1 (R220). -/
def Obligations.BuildLutBuilds : Prop :=
  (∀ s : State, s.script = [] → s.cfg.tone.contrast.toInt < 259 →
    exec .buildLut s = .next { afterCommand s with lut := ⟨lutTable s.cfg.tone, true, s.cfg.tone⟩ })
    ∧ ∀ (K : Tone) (i : Fin 256),
        let c := K.contrast.toInt
        let v := fOfInt ((i.val : Int) + 128 - K.thresh.toNat)
        let v := if c ≠ 0 then
            fAdd (fMul (fDiv (fOfInt (259 * (c + 255))) (fOfInt (255 * (259 - c)))) (fSub v (fOfNat 128))) (fOfNat 128)
          else v
        let v := if fLt v (fOfNat 0) then fOfNat 0 else if fLt (fOfNat 255) v then fOfNat 255 else v
        let n := fDiv v (fOfNat 255)
        let n := if fLt n (fOfRat 1 2) then fMul n (fDiv (fOfNat K.midtone.toNat) (fOfNat 50))
          else fAdd (fOfRat 1 2) (fDiv (fMul (fSub n (fOfRat 1 2)) (fOfNat K.highlight.toNat)) (fOfNat 50))
        let v := fMul n (fOfNat 255)
        let v := if K.invert = true then fSub (fOfNat 255) v else v
        (lutTable K).get i = rneU8 v

/-- 41_downsampler.md: SAMPLE latches the working dimensions, reads every sampled pixel and leaves its luminance in
IBUF, which is the one valid buffer. The luminance is written out (R205). -/
def Obligations.SampleFillsIbuf : Prop :=
  ∀ s : State, Quiet s → SourceFits s → SourceReadable s →
    exec .sample s = .next
      { afterCommand s with
        dims := ⟨BitVec.ofNat 16 (nextH s) ++ BitVec.ofNat 16 (nextW s), s.cfg.srcDim, s.cfg.scale⟩
        valid := ⟨true, false, false, false, false⟩
        bufs := { s.bufs with
          ibuf := rows (nextW s) (nextH s) fun x y =>
            let a := pixelAddr s x y
            let red := fMul (fOfRat 299 1000) (fOfNat (s.mem.read a).toNat)
            let green := fMul (fOfRat 587 1000) (fOfNat (s.mem.read (a + 1)).toNat)
            let blue := fMul (fOfRat 114 1000) (fOfNat (s.mem.read (a + 2)).toNat)
            BitVec.ofInt 8 (max 0 (min (fFloor (fAdd (fAdd red green) blue)) 255)) } }

/-- R202: SAMPLE and RUN_FRAME on a zero-area source. -/
def Obligations.ZeroAreaCompletes : Prop :=
  ∀ s : State, s.script = [] → cfgW s = 0 ∨ cfgH s = 0 →
    let t : State :=
      { afterCommand s with
        dims := ⟨0, s.cfg.srcDim, s.cfg.scale⟩
        valid := ⟨true, false, false, false, false⟩
        bufs := { s.bufs with ibuf := [] } }
    exec .sample s = .next t ∧ (NotMidFrame s → exec .runFrame s = .next t)

/-- 42_tone_curve_lut.md section 2: TONEMAP builds the LUT where one is needed and maps every element i of IBUF to entry i
of the LUT RAM. -/
def Obligations.TonemapMapsIbuf : Prop :=
  ∀ s : State, Quiet s → s.valid.ibuf = true → lutFits s ∨ ¬pole s →
    exec .tonemap s = .next
      { afterCommand s with
        lut := nextLut s
        valid := ⟨true, true, false, false, false⟩
        bufs := { s.bufs with
          tbuf := rows (workW s) (workH s) fun x y =>
            (nextLut s).ram.get (Fin.ofNat 256 (px s.bufs.ibuf x y).toNat) } }

/-- 43_dither_dispatch.md sections 1 and 4: DITHER starts the stage (the flags, the reload of RNG_STATE, the valid
bits) and its variant, which the style code of the snapshot selects, is decoded next, in a step of its own (log entry
12). -/
def Obligations.DitherStarts : Prop :=
  ∀ s : State, s.script = [] → s.valid.tbuf = true → s.cfg.pscale ≠ 0 →
    exec .dither s = .next
      { s with
        status := { s.status with
          done := false, err := false
          styleUnk := unassignedCode s.cfg.style
          msizeFb := decide (s.cfg.style = 0x20 ∧ s.cfg.msize ∉ ([2, 4, 8, 16] : List Byte)) }
        report := ⟨0, 0, 0⟩
        snap := s.cfg
        dimsBefore := s.dims
        race := ⟨[], []⟩
        rngState := if s.cfg.rngFree = true then s.rngState else s.cfg.rngSeed
        valid := { s.valid with mbuf := false, dbuf := false, cbuf := false }
        phase := .run 0x05 .dither 0 }

/-- 46_depth_shadow.md: DEPTH blanks the element `off` columns left of every dark element of MBUF and copies the
others. -/
def Obligations.DepthShadows : Prop :=
  ∀ s : State, Quiet s → s.valid.mbuf = true →
    exec .depth s = .next
      { afterCommand s with
        valid := { s.valid with dbuf := true, cbuf := false }
        bufs := { s.bufs with
          dbuf := rows (workW s) (workH s) fun p y =>
            let off := s.cfg.depth.toNat
            if 0 < off ∧ p + off < workW s ∧ px s.bufs.mbuf (p + off) y = 0 then 0 else px s.bufs.mbuf p y } }

/-- 47_palette_interp.md: PALETTE interpolates every element of DBUF along the stops, each with red in bits 7..0 of its
register, green in bits 15..8 and blue in bits 23..16 (10_state.md R72). -/
def Obligations.PaletteInterpolates : Prop :=
  ∀ s : State, Quiet s → s.valid.dbuf = true → 1 ≤ s.cfg.palCount.toNat → s.cfg.palCount.toNat ≤ 16 →
    exec .palette s = .next
      { afterCommand s with
        valid := { s.valid with cbuf := true }
        bufs := { s.bufs with
          cbuf := rows (workW s) (workH s) fun x y =>
            let n := s.cfg.palCount.toNat
            let pos := fMul (fDiv (fOfNat (px s.bufs.dbuf x y).toNat) f255) (fOfNat (n - 1))
            let idx := (fFloor pos).toNat
            let frac := fSub pos (fOfNat idx)
            let a : BitVec 24 := s.cfg.pal.toList.getD idx 0
            let b : BitVec 24 := s.cfg.pal.toList.getD (min (idx + 1) (n - 1)) 0
            let channel (u v : Byte) := rneU8 (fAdd (fOfNat u.toNat) (fMul (fSub (fOfNat v.toNat) (fOfNat u.toNat)) frac))
            ⟨channel (a.extractLsb' 0 8) (b.extractLsb' 0 8), channel (a.extractLsb' 8 8) (b.extractLsb' 8 8),
              channel (a.extractLsb' 16 8) (b.extractLsb' 16 8)⟩ } }

/-- 48_upsampler.md: UPSCALE writes the four bytes of every destination pixel, and no other byte of memory. -/
def Obligations.UpscaleWritesPixels : Prop :=
  ∀ s : State, Quiet s → s.mem.wf = true → s.valid.cbuf = true →
    DestinationTakes s (dimLo s.dims.src * dimHi s.dims.src) 4 →
    ∃ m, exec .upscale s = .next { afterCommand s with mem := m }
      ∧ (∀ X Y k, X < dimLo s.dims.src → Y < dimHi s.dims.src → k < 4 →
          m.read (s.cfg.dstBase.toNat + 4 * (Y * dimLo s.dims.src + X) + k)
            = outByte s.bufs.cbuf (workW s) (workH s) s.dims.scale.toNat X Y k)
      ∧ ∀ a, a < s.cfg.dstBase.toNat ∨ s.cfg.dstBase.toNat + 4 * (dimLo s.dims.src * dimHi s.dims.src) ≤ a →
          m.read a = s.mem.read a

/-- 40_commands.md section 4: each DUMP writes the bytes of its buffer, packed, and no other byte of memory. -/
def Obligations.DumpWritesBuffer : Prop :=
  ∀ s : State, Quiet s → s.mem.wf = true →
    (s.valid.ibuf = true → DumpWrites .dumpIbuf 1 (fun x y _ => px s.bufs.ibuf x y) s)
      ∧ (s.valid.tbuf = true → DumpWrites .dumpTbuf 1 (fun x y _ => px s.bufs.tbuf x y) s)
      ∧ (s.valid.mbuf = true → DumpWrites .dumpMbuf 1 (fun x y _ => px s.bufs.mbuf x y) s)
      ∧ (s.valid.dbuf = true → DumpWrites .dumpDbuf 1 (fun x y _ => px s.bufs.dbuf x y) s)
      ∧ (s.valid.cbuf = true → DumpWrites .dumpCbuf 3
          (fun x y k => [(cpx s.bufs.cbuf x y).r, (cpx s.bufs.cbuf x y).g, (cpx s.bufs.cbuf x y).b].getD k 0) s)

/-- 40_commands.md section 3: RUN_FRAME, taken with every check passing, runs the SAMPLE and TONEMAP stages and starts
the dither stage. That its step ends at the dispatch of the variant is the model's division of RUN_FRAME into three
steps (log entry 12). -/
def Obligations.FrameHead : Prop :=
  ∀ s : State, Quiet s → NotMidFrame s → FrameRuns s →
    exec .runFrame s = .next
      { s with
        status := { s.status with
          done := false, err := false
          styleUnk := unassignedCode s.cfg.style
          msizeFb := decide (s.cfg.style = 0x20 ∧ s.cfg.msize ∉ ([2, 4, 8, 16] : List Byte)) }
        report := ⟨0, 0, 0⟩
        snap := s.cfg
        dimsBefore := s.dims
        race := ⟨[], []⟩
        dims := ⟨BitVec.ofNat 16 (nextH s) ++ BitVec.ofNat 16 (nextW s), s.cfg.srcDim, s.cfg.scale⟩
        rngState := if s.cfg.rngFree = true then s.rngState else s.cfg.rngSeed
        lut := nextLut s
        valid := ⟨true, true, false, false, false⟩
        bufs := { s.bufs with
          ibuf := rows (nextW s) (nextH s) fun x y =>
            let a := pixelAddr s x y
            lum (s.mem.read a) (s.mem.read (a + 1)) (s.mem.read (a + 2))
          tbuf := rows (nextW s) (nextH s) fun x y =>
            let a := pixelAddr s x y
            (nextLut s).ram.get (Fin.ofNat 256 (lum (s.mem.read a) (s.mem.read (a + 1)) (s.mem.read (a + 2))).toNat) }
        phase := .run 0x01 .dither 0 }

/-- 40_commands.md section 3: once its dither stage has ended, RUN_FRAME runs the DEPTH, PALETTE and UPSCALE stages on
its snapshot and completes. That a RUN_FRAME standing at its depth stage is the third of its steps is the model's
choice (log entry 12). -/
def Obligations.FrameTail : Prop :=
  ∀ (s : State) (w : Word) (row : Nat), Quiet s → s.phase = .run w .depth row → s.mem.wf = true →
    s.race.touched = [] → WritesGo s s.snap.dstBase.toNat (dimLo s.dims.src * dimHi s.dims.src) 4 →
    ∃ m, exec .runFrame s = .next
        { s with
          status := { s.status with done := true }
          valid := { s.valid with dbuf := true, cbuf := true }
          bufs := { s.bufs with dbuf := tailDbuf s, cbuf := tailCbuf s }
          phase := .idle
          diff := ⟨[], none⟩
          race := ⟨[], []⟩
          mem := m }
      ∧ (∀ X Y k, X < dimLo s.dims.src → Y < dimHi s.dims.src → k < 4 →
          m.read (s.snap.dstBase.toNat + 4 * (Y * dimLo s.dims.src + X) + k)
            = outByte (tailCbuf s) (workW s) (workH s) s.dims.scale.toNat X Y k)
      ∧ ∀ a, a < s.snap.dstBase.toNat ∨ s.snap.dstBase.toNat + 4 * (dimLo s.dims.src * dimHi s.dims.src) ≤ a →
          m.read a = s.mem.read a

/-- 40_commands.md section 3: RUN_FRAME leaves the state that SAMPLE, TONEMAP, DITHER with its variant, DEPTH, PALETTE
and UPSCALE leave one after another, but for the model's own note of the dimensions before the command. RUN_FRAME runs
as three steps and DITHER as two by the model's choice (log entry 12). -/
def Obligations.FrameIsStages : Prop :=
  ∀ s : State, Quiet s → NotMidFrame s → s.mem.wf = true → FrameRuns s →
    ∃ t u : State,
      runAll [.runFrame, decode (.style s.cfg.style), .runFrame] s = .next t
        ∧ runAll [.sample, .tonemap, .dither, decode (.style s.cfg.style), .depth, .palette, .upscale] s = .next u
        ∧ t.phase = .idle ∧ t.status.done = true ∧ t = { u with dimsBefore := s.dims }

/-- 00_scope.md section 1 and 43_dither_dispatch.md section 2: with RNG_FREE = 0 a frame is a function of the source
region and the configuration: two runs that agree on those leave the same destination bytes and working buffers,
whatever else differed before (the random state, the LUT, the old buffers, the rest of memory). -/
def Obligations.FramePure : Prop :=
  ∀ s s' : State, Quiet s → Quiet s' → NotMidFrame s → NotMidFrame s' → s.mem.wf = true → s'.mem.wf = true →
    LutOk s → LutOk s' → FrameRuns s → FrameRuns s' → s.cfg = s'.cfg → s.plat = s'.plat → s.cfg.rngFree = false →
    (∀ a, s.cfg.srcBase.toNat ≤ a → a < s.cfg.srcBase.toNat + 4 * cfgW s * cfgH s → s.mem.read a = s'.mem.read a) →
    ∃ t t' : State,
      runAll [.runFrame, decode (.style s.cfg.style), .runFrame] s = .next t
        ∧ runAll [.runFrame, decode (.style s.cfg.style), .runFrame] s' = .next t'
        ∧ t.bufs = t'.bufs ∧ t.dims = t'.dims ∧ t.valid = t'.valid
        ∧ ∀ a, s.cfg.dstBase.toNat ≤ a → a < s.cfg.dstBase.toNat + 4 * (cfgW s * cfgH s) →
            t.mem.read a = t'.mem.read a

/-! ### Refused accesses -/

/-- 60_exceptions.md sections 1 and 2: SAMPLE, or the SAMPLE stage of RUN_FRAME, with its first refused read at working
cell (X, Y) fails with BUS and that pixel's address; every buffer is invalid, memory is as it was. -/
def Obligations.SampleBus : Prop :=
  ∀ (s : State) (X Y : Nat), Quiet s → X < nextW s → Y < nextH s → refuses s (pixelAddr s X Y) 4 .read = true →
    (∀ x y, x < nextW s → y < Y ∨ y = Y ∧ x < X → refuses s (pixelAddr s x y) 4 .read = false) →
    let failsWith (i : Instr) (op : BitVec 4) : Prop :=
      ∃ b, exec i s = .next
        { afterError .bus op (BitVec.ofNat 32 (pixelAddr s X Y)) s with
          dims := ⟨BitVec.ofNat 16 (nextH s) ++ BitVec.ofNat 16 (nextW s), s.cfg.srcDim, s.cfg.scale⟩
          valid := Valid.none
          bufs := { s.bufs with ibuf := b } }
    (SourceFits s → SourceOrdinary s → failsWith .sample 3) ∧ (NotMidFrame s → FrameLaunches s → failsWith .runFrame 1)

/-- 60_exceptions.md sections 1 and 2: UPSCALE with its first refused write at pixel (X, Y) fails with BUS and that
pixel's address; the pixels before it are written and no other byte, and every valid bit is as it was. The same of each
DUMP, by the byte, and of the UPSCALE stage of a RUN_FRAME (whose last step it is, log entry 12). -/
def Obligations.UpscaleBus : Prop :=
  (∀ (s : State) (X Y : Nat), Quiet s → s.mem.wf = true → s.valid.cbuf = true →
    s.cfg.dstBase.toNat + 4 * dimLo s.dims.src * dimHi s.dims.src ≤ 4294967296 →
    meetsDevice s ⟨s.cfg.dstBase.toNat, 4 * dimLo s.dims.src * dimHi s.dims.src⟩ = false →
    X < dimLo s.dims.src → Y < dimHi s.dims.src →
    let first := Y * dimLo s.dims.src + X
    refuses s (s.cfg.dstBase.toNat + 4 * first) 4 .write = true →
    (∀ k, k < first → refuses s (s.cfg.dstBase.toNat + 4 * k) 4 .write = false) →
    ∃ m, exec .upscale s = .next
        { afterError .bus 8 (BitVec.ofNat 32 (s.cfg.dstBase.toNat + 4 * first)) s with mem := m }
      ∧ (∀ x y k, x < dimLo s.dims.src → y * dimLo s.dims.src + x < first → k < 4 →
          m.read (s.cfg.dstBase.toNat + 4 * (y * dimLo s.dims.src + x) + k)
            = outByte s.bufs.cbuf (workW s) (workH s) s.dims.scale.toNat x y k)
      ∧ ∀ a, a < s.cfg.dstBase.toNat ∨ s.cfg.dstBase.toNat + 4 * first ≤ a → m.read a = s.mem.read a)
  ∧ (∀ s : State, Quiet s → s.mem.wf = true →
      (s.valid.ibuf = true → DumpBus .dumpIbuf 1 (fun x y _ => px s.bufs.ibuf x y) s)
        ∧ (s.valid.tbuf = true → DumpBus .dumpTbuf 1 (fun x y _ => px s.bufs.tbuf x y) s)
        ∧ (s.valid.mbuf = true → DumpBus .dumpMbuf 1 (fun x y _ => px s.bufs.mbuf x y) s)
        ∧ (s.valid.dbuf = true → DumpBus .dumpDbuf 1 (fun x y _ => px s.bufs.dbuf x y) s)
        ∧ (s.valid.cbuf = true → DumpBus .dumpCbuf 3
            (fun x y k => [(cpx s.bufs.cbuf x y).r, (cpx s.bufs.cbuf x y).g, (cpx s.bufs.cbuf x y).b].getD k 0) s))
  ∧ ∀ (s : State) (w : Word) (row X Y : Nat), Quiet s → s.phase = .run w .depth row → s.mem.wf = true →
      s.race.touched = [] → s.snap.dstBase.toNat + 4 * (dimLo s.dims.src * dimHi s.dims.src) ≤ 4294967296 →
      X < dimLo s.dims.src → Y < dimHi s.dims.src →
      let first := Y * dimLo s.dims.src + X
      refuses s (s.snap.dstBase.toNat + 4 * first) 4 .write = true →
      (∀ k, k < first → refuses s (s.snap.dstBase.toNat + 4 * k) 4 .write = false) →
      ∃ m, exec .runFrame s = .next
          { s with
            status := { s.status with err := true }
            report := ⟨errCode .bus, w.extractLsb' 0 4, BitVec.ofNat 32 (s.snap.dstBase.toNat + 4 * first)⟩
            valid := { s.valid with dbuf := true, cbuf := true }
            bufs := { s.bufs with dbuf := tailDbuf s, cbuf := tailCbuf s }
            phase := .idle
            diff := ⟨[], none⟩
            race := ⟨[], []⟩
            mem := m }
        ∧ (∀ x y k, x < dimLo s.dims.src → y * dimLo s.dims.src + x < first → k < 4 →
            m.read (s.snap.dstBase.toNat + 4 * (y * dimLo s.dims.src + x) + k)
              = outByte (tailCbuf s) (workW s) (workH s) s.dims.scale.toNat x y k)
        ∧ ∀ a, a < s.snap.dstBase.toNat ∨ s.snap.dstBase.toNat + 4 * first ≤ a → m.read a = s.mem.read a

/-! ### What the dither variants do -/

/-- 44_error_diffusion.md section 1: the eight kernel styles, as the spec's loop over an accumulator of binary64 values
leaves MBUF, for every table of taps the platform gives (KERNEL_TABLE, held in plat; the Floyd-Steinberg taps and the
eight divisors are fixed); and the default table, which State.reset takes (log entry 24). -/
def Obligations.KernelStyles : Prop :=
  (∀ (s : State) (w : Word) (row : Nat), Quiet s → s.phase = .run w .dither row →
    ∀ k ∈ ([(.edFloydSteinberg, 16, [(1, 0, 7), (-1, 1, 3), (0, 1, 5), (1, 1, 1)]),
        (.edAtkinson, 8, tapTriples s.plat.kernels.atkinson), (.edJjn, 48, tapTriples s.plat.kernels.jjn),
        (.edStucki, 42, tapTriples s.plat.kernels.stucki), (.edBurkes, 32, tapTriples s.plat.kernels.burkes),
        (.edSierra, 32, tapTriples s.plat.kernels.sierra), (.edSierra2, 16, tapTriples s.plat.kernels.sierra2),
        (.edSierraLite, 4, tapTriples s.plat.kernels.sierraLite)] : List (Instr × Nat × List (Int × Int × Int))),
      exec k.1 s = .next
        (ditherResult w
          (rows (workW s) (workH s)
            (diffused (tapShares k.2.1 k.2.2 (fDiv (fOfNat s.snap.bleed.toNat) f256)) (px s.bufs.tbuf) (workW s)
              (workH s)))
          s.rngState s))
    ∧ (let k := State.reset.plat.kernels
      [k.atkinson, k.jjn, k.stucki, k.burkes, k.sierra, k.sierra2, k.sierraLite].map tapTriples
        = [[(1, 0, 1), (2, 0, 1), (-1, 1, 1), (0, 1, 1), (1, 1, 1), (0, 2, 1)],
          [(1, 0, 7), (2, 0, 5), (-2, 1, 3), (-1, 1, 5), (0, 1, 7), (1, 1, 5), (2, 1, 3), (-2, 2, 1), (-1, 2, 3),
            (0, 2, 5), (1, 2, 3), (2, 2, 1)],
          [(1, 0, 8), (2, 0, 4), (-2, 1, 2), (-1, 1, 4), (0, 1, 8), (1, 1, 4), (2, 1, 2), (-2, 2, 1), (-1, 2, 2),
            (0, 2, 4), (1, 2, 2), (2, 2, 1)],
          [(1, 0, 8), (2, 0, 4), (-2, 1, 2), (-1, 1, 4), (0, 1, 8), (1, 1, 4), (2, 1, 2)],
          [(1, 0, 5), (2, 0, 3), (-2, 1, 2), (-1, 1, 4), (0, 1, 5), (1, 1, 4), (2, 1, 2), (-1, 2, 2), (0, 2, 3),
            (1, 2, 2)],
          [(1, 0, 4), (2, 0, 3), (-2, 1, 1), (-1, 1, 2), (0, 1, 3), (1, 1, 2), (2, 1, 1)],
          [(1, 0, 2), (-1, 1, 1), (0, 1, 1)]])

/-- 44_error_diffusion.md section 2: the variable-coefficient diffuser, the coefficients chosen by TBUF[x, y]. -/
def Obligations.VariableCoefficientStyle : Prop :=
  ∀ (s : State) (w : Word) (row : Nat), Quiet s → s.phase = .run w .dither row →
    let shares (i : Byte) (e : F64) : List (Int × Int × F64) :=
      let c : Nat × Nat × Nat :=
        if i.toNat < 64 then (13, 0, 5) else if i.toNat < 128 then (6, 13, 0) else if i.toNat < 192 then (0, 7, 13)
        else (3, 5, 13)
      let q := fDiv e (fOfNat (c.1 + c.2.1 + c.2.2))
      [(1, 0, fMul q (fOfNat c.1)), (-1, 1, fMul q (fOfNat c.2.1)), (0, 1, fMul q (fOfNat c.2.2))]
    exec .vcOstromoukhov s = .next
      (ditherResult w (rows (workW s) (workH s) (diffused shares (px s.bufs.tbuf) (workW s) (workH s))) s.rngState s)

/-- 44_error_diffusion.md section 3: the serpentine diffuser, for every value of SERP_DAMP. -/
def Obligations.SerpentineStyle : Prop :=
  ∀ (s : State) (w : Word) (row : Nat), Quiet s → s.phase = .run w .dither row →
    exec .sfcRiemersma s = .next
      (ditherResult w (rows (workW s) (workH s) (serpentined s.plat.serpDamp (px s.bufs.tbuf) (workW s) (workH s)))
        s.rngState s)

/-- 45_threshold_dither.md section 2: the ordered matrices, ORD.KNOLL for every matrix the platform gives (KNOLL4, held
in plat); and the default matrix, which State.reset takes (log entry 24). -/
def Obligations.OrderedStyles : Prop :=
  (∀ (s : State) (w : Word) (row : Nat), Quiet s → s.phase = .run w .dither row →
    exec .ordBayer s = .next
        (ditherResult w
          (rows (workW s) (workH s) fun x y =>
            let thr (k : Nat) := bayer k (x % 2 ^ k) (y % 2 ^ k) * (256 / (2 ^ k * 2 ^ k))
            let t := if s.snap.msize = 2 then thr 1 else if s.snap.msize = 4 then thr 2
              else if s.snap.msize = 8 then thr 3 else if s.snap.msize = 16 then thr 4 else 128
            if (px s.bufs.tbuf x y).toNat > t then 255 else 0)
          s.rngState s)
      ∧ exec .ordKnoll s = .next
        (ditherResult w
          (rows (workW s) (workH s) fun x y =>
            let m := s.plat.knoll4.toList.map fun r => r.toList.map fun v => v.val
            if (px s.bufs.tbuf x y).toNat > ((m.getD (y % 4) []).getD (x % 4) 0) * 16 then 255 else 0)
          s.rngState s))
    ∧ (State.reset.plat.knoll4.toList.map fun r => r.toList.map fun v => v.val)
      = [[12, 5, 6, 13], [4, 0, 1, 7], [11, 3, 2, 8], [15, 10, 9, 14]]

/-- 45_threshold_dither.md section 3: the procedural lines. -/
def Obligations.LineStyles : Prop :=
  ∀ (s : State) (w : Word) (row : Nat), Quiet s → s.phase = .run w .dither row →
    let lines (c : Nat → Nat → Nat) : State :=
      ditherResult w
        (rows (workW s) (workH s) fun x y =>
          let thr := if 2 * (c x y % s.snap.pscale.toNat) < s.snap.pscale.toNat then 20 else 230
          if (px s.bufs.tbuf x y).toNat > thr then 255 else 0)
        s.rngState s
    exec .linesH s = .next (lines fun _ y => y) ∧ exec .linesV s = .next (lines fun x _ => x)
      ∧ exec .linesD s = .next (lines fun x y => x + y)

/-- 45_threshold_dither.md section 6: the pattern masks that draw nothing. -/
def Obligations.PatternStyles : Prop :=
  ∀ (s : State) (w : Word) (row : Nat), Quiet s → s.phase = .run w .dither row →
    let masked (on : Nat → Nat → Bool) : State :=
      ditherResult w
        (rows (workW s) (workH s) fun x y =>
          if (px s.bufs.tbuf x y).toNat > (if on x y = true then 127 else 200) then 255 else 0)
        s.rngState s
    let p := s.snap.pscale.toNat
    exec .patChecker s = .next (masked fun x y => decide ((x + y) % 2 = 0))
      ∧ exec .patGrid s = .next (masked fun x y => decide (x % p = 0 ∨ y % p = 0))
      ∧ exec .patGradient s = .next (masked fun x y => decide (x * y % (2 * p) < p))

/-- 43_dither_dispatch.md section 2 and 45_threshold_dither.md sections 4 and 6: the variants that draw: element
(x, y) takes draw number y * WW + x + 1 of the stage, and WW * WH draws are made. -/
def Obligations.RandomStyles : Prop :=
  ∀ (s : State) (w : Word) (row : Nat), Quiet s → s.phase = .run w .dither row →
    let drawing (f : F64 → Byte → Bool) : State :=
      ditherResult w
        (rows (workW s) (workH s) fun x y =>
          let r := fDiv (fOfNat (drawn (y * workW s + x + 1) s.rngState).toNat) f2p32
          if f r (px s.bufs.tbuf x y) = true then 255 else 0)
        (drawn (workW s * workH s) s.rngState) s
    let stipple (r : F64) (i : Byte) : Bool := fLt r (fDiv (fOfNat i.toNat) f255)
    exec .noiseWhite s = .next (drawing fun r i => fLt (fMul r f255) (fOfNat i.toNat))
      ∧ exec .noiseStipple s = .next (drawing stipple)
      ∧ exec .noiseVoronoi s = .next (drawing stipple)
      ∧ exec .patRandom s = .next (drawing fun r i => decide (i.toNat > if fLt r fHalf = true then 127 else 200))

/-- 45_threshold_dither.md sections 4 and 5: the blue-noise hash and the six waveforms, for every sine SIN64. -/
def Obligations.SineStyles : Prop :=
  ∀ (s : State) (w : Word) (row : Nat), Quiet s → s.phase = .run w .dither row →
    let mask (thr : Nat → Nat → F64) : State :=
      ditherResult w
        (rows (workW s) (workH s) fun x y =>
          if fLt (thr x y) (fOfNat (px s.bufs.tbuf x y).toNat) = true then 255 else 0)
        s.rngState s
    let phase (d : F64) : F64 := fDiv (fMul fTwoPi d) (fOfNat s.snap.pscale.toNat)
    let sine (d : F64) : F64 := fAdd f127h (fMul f127h (Config.sin64 (phase d)))
    let square (d : F64) : F64 :=
      fAdd f127h (fMul f127h (if fLe f0 (Config.sin64 (phase d)) = true then f1 else fMinus1))
    let radial (x y : Nat) : F64 :=
      let dx := fSub (fOfNat x) (fDiv (fOfNat (workW s)) f2)
      let dy := fSub (fOfNat y) (fDiv (fOfNat (workH s)) f2)
      fSqrt (fAdd (fMul dx dx) (fMul dy dy))
    exec .noiseBlue s = .next (mask fun x y =>
        fMod (fAbs (fMul (Config.sin64 (fAdd (fMul (fOfNat x) fHashX) (fMul (fOfNat y) fHashY))) fHashScale)) f256)
      ∧ exec .waveSinX s = .next (mask fun x _ => sine (fOfNat x))
      ∧ exec .waveSinY s = .next (mask fun _ y => sine (fOfNat y))
      ∧ exec .waveSinR s = .next (mask fun x y => sine (radial x y))
      ∧ exec .waveSqrX s = .next (mask fun x _ => square (fOfNat x))
      ∧ exec .waveSqrY s = .next (mask fun _ y => square (fOfNat y))
      ∧ exec .waveSqrR s = .next (mask fun x y => square (radial x y))

/-- 43_dither_dispatch.md section 1: the passthrough copies TBUF to MBUF and draws nothing. -/
def Obligations.PassthroughCopies : Prop :=
  ∀ (s : State) (c : Byte) (w : Word) (row : Nat), Quiet s → s.phase = .run w .dither row →
    exec (.passthrough c) s = .next
      (ditherResult w (rows (workW s) (workH s) fun x y => px s.bufs.tbuf x y) s.rngState s)

/-- R258: every variant but the passthrough leaves only 0 and 255 in MBUF, whatever lands on it. -/
def Obligations.MaskBinary : Prop :=
  ∀ (i : Instr) (s t : State), isCommand i = false → (∀ c, i ≠ .passthrough c) → exec i s = .next t →
    ∀ r ∈ t.bufs.mbuf, ∀ v ∈ r, v = 0 ∨ v = 255

/-- 44_error_diffusion.md section 4: a TBUF of all 255 gives an MBUF of all 255 under every kernel style and every
bleed factor, for every table of taps whose weights, of either sign, binary64 holds exactly (00_scope.md R16). -/
def Obligations.AllWhiteStaysWhite : Prop :=
  ∀ (i : Instr) (s : State) (w : Word) (row : Nat), Quiet s → s.phase = .run w .dither row →
    i ∈ ([.edFloydSteinberg, .edAtkinson, .edJjn, .edStucki, .edBurkes, .edSierra, .edSierra2, .edSierraLite] :
      List Instr) →
    (∀ tap ∈ tapsOf i s, tap.wt.natAbs ≤ 2 ^ 53) →
    (∀ x y, x < workW s → y < workH s → px s.bufs.tbuf x y = 255) →
    ∃ t, exec i s = .next t ∧ t.bufs.mbuf = rows (workW s) (workH s) fun _ _ => 255

/-! ### Frames -/

/-- What every dither variant leaves, whether it completes or is abandoned for a pending word: every buffer but MBUF,
the LUT, the latched dimensions, the configuration, the report and every byte of memory. -/
def Obligations.StyleFrame : Prop :=
  ∀ (i : Instr) (s t : State), isCommand i = false → s.script = [] → exec i s = .next t →
    t.bufs.ibuf = s.bufs.ibuf ∧ t.bufs.tbuf = s.bufs.tbuf ∧ t.bufs.dbuf = s.bufs.dbuf ∧ t.bufs.cbuf = s.bufs.cbuf
      ∧ t.lut = s.lut ∧ t.dims = s.dims ∧ t.cfg = s.cfg ∧ t.snap = s.snap ∧ t.irqEn = s.irqEn ∧ t.report = s.report
      ∧ t.pendCmd = s.pendCmd ∧ t.status.styleUnk = s.status.styleUnk ∧ t.status.msizeFb = s.status.msizeFb
      ∧ t.status.err = s.status.err ∧ ∀ a, t.mem.read a = s.mem.read a

/-- 60_exceptions.md section 3 says of a command error that it changes no configuration register, no IRQ_EN, no CTRL and
no PAL register. Here for every instruction, whether it completes, fails or is abandoned; and nothing else that is the
world's changes, the pending word, the platform, the script and the ports' answers included (log entries 4 and 8). -/
def Obligations.ConfigFrame : Prop :=
  ∀ (i : Instr) (s t : State), s.script = [] → exec i s = .next t →
    t.cfg = s.cfg ∧ t.irqEn = s.irqEn ∧ t.pendCmd = s.pendCmd ∧ t.plat = s.plat ∧ t.inReset = s.inReset
      ∧ t.script = [] ∧ t.portLog = s.portLog

/-- 20_memory.md sections 1 and 3: only UPSCALE, DUMP and the end of RUN_FRAME write frame memory, and each only in its
destination region. RUN_FRAME's steps up to its dither variant and from its depth stage on are the model's division (log
entry 12). -/
def Obligations.MemoryFrame : Prop :=
  ∀ (i : Instr) (s t : State), s.script = [] → s.mem.wf = true → exec i s = .next t →
    let same (base size : Nat) : Prop := ∀ a, a < base ∨ base + size ≤ a → t.mem.read a = s.mem.read a
    (writesFrame i = false → ∀ a, t.mem.read a = s.mem.read a)
      ∧ (i = .upscale → same s.cfg.dstBase.toNat (4 * (dimLo s.dims.src * dimHi s.dims.src)))
      ∧ (i ∈ ([.dumpIbuf, .dumpTbuf, .dumpMbuf, .dumpDbuf] : List Instr) →
          same s.cfg.dstBase.toNat (workW s * workH s))
      ∧ (i = .dumpCbuf → same s.cfg.dstBase.toNat (3 * workW s * workH s))
      ∧ (i = .runFrame → NotMidFrame s → ∀ a, t.mem.read a = s.mem.read a)
      ∧ (i = .runFrame → ¬NotMidFrame s →
          same s.snap.dstBase.toNat (4 * (dimLo s.dims.src * dimHi s.dims.src)))

/-- 10_state.md section 1 and 60_exceptions.md section 5: with the engine IDLE, a step in which no command is written
and no reset comes changes nothing that only the engine writes. -/
def Obligations.IdleKeeps : Prop :=
  ∀ s t : State, s.phase = .idle → (∀ w rest, s.script ≠ .write 0x010 4 w :: rest) →
    (∀ n torn rest, s.script ≠ .resetOn n torn :: rest) → step s = .next t →
    t.snap = s.snap ∧ t.report = s.report ∧ t.valid = s.valid ∧ t.dims = s.dims ∧ t.lut = s.lut ∧ t.bufs = s.bufs
      ∧ t.rngState = s.rngState ∧ t.diff = s.diff ∧ t.phase = .idle ∧ t.plat = s.plat
      ∧ t.status.styleUnk = s.status.styleUnk ∧ t.status.msizeFb = s.status.msizeFb
      ∧ t.status.pending = s.status.pending

/-- 00_scope.md section 3 and 93_implementation_defined.md: the parameters of the platform are fixed for a run. -/
def Obligations.PlatformFixed : Prop := ∀ s t : State, step s = .next t → t.plat = s.plat

/-! ### What every step keeps -/

/-- The memory keeps its canonical form (the model's own, log entry 6). -/
def Obligations.MemoryInvariant : Prop := ∀ s t : State, s.mem.wf = true → step s = .next t → t.mem.wf = true

/-- 10_state.md sections 3 and 5: the random state and the seeds are never 0, the base registers stay multiples of 4,
and ACC and SERP_E hold nothing between steps. Of SNAP this holds across a reset by the model's choice of SNAP's reset
value (log entry 3). -/
def Obligations.RegisterInvariant : Prop :=
  ∀ s t : State, RngOk s → BasesOk s → DiffuserOk s → step s = .next t → RngOk t ∧ BasesOk t ∧ DiffuserOk t

/-- 42_tone_curve_lut.md section 1: a built LUT is the table of its key, and no key has a rejected contrast. -/
def Obligations.LutInvariant : Prop := ∀ s t : State, LutOk s → step s = .next t → LutOk t

/-- 10_state.md sections 4 and 5: the valid buffers form one chain and have the dimensions in WORK_DIM. Which commands
stand between two of their steps, and at which stages, is the model's division into steps (log entry 12). -/
def Obligations.BufferInvariant : Prop := ∀ s t : State, BuffersOk s → step s = .next t → BuffersOk t

/-- 10_state.md section 3 and 60_exceptions.md sections 1 and 2: the flags and the report agree. A word may be pending
behind one that is on its way into acceptance (log entry 13). -/
def Obligations.FlagInvariant : Prop := ∀ s t : State, FlagsOk s → step s = .next t → FlagsOk t

/-- What every step keeps holds in the state after reset. Of SNAP it does by the model's choice of SNAP's reset value
(log entry 3), of memory by its choice of an empty one (log entry 6). -/
def Obligations.ResetInvariants : Prop :=
  State.reset.mem.wf = true ∧ RngOk State.reset ∧ BasesOk State.reset ∧ DiffuserOk State.reset ∧ LutOk State.reset
    ∧ BuffersOk State.reset ∧ FlagsOk State.reset

/-! ### Reset -/

/-- R441: the state after reset, as the power-on state has it and as a later assertion leaves it; frame memory is not
changed by reset. Unspecified pieces are not named. -/
def Obligations.ResetState : Prop :=
  let values (t : State) : Prop :=
    [Reg.id, .version, .caps1, .cmd, .status, .irqEn, .errCode, .errAddr, .ctrl, .bufValid, .workDim, .latSrcDim,
        .latScale].map (fun r => (regRead r t).1)
      = [0x544C5554, 0x00010007, 0x10, 0, 0, 0, 0, 0, 0, 0, 0, 0, 0]
    ∧ [Reg.srcBase, .srcDim, .dstBase, .scale, .contrast, .midtone, .highlight, .thresh, .invert, .style, .msize,
        .pscale, .bleed, .depth, .rngSeed, .palCount].map (fun r => (regRead r t).1)
      = [0, 0, 0, 1, 0, 50, 50, 128, 0, 0x10, 4, 4, 0x100, 0, 1, 2]
    ∧ (∀ k : Fin 16, (regRead (.pal k) t).1 = if k = 1 then 0x00FFFFFF else 0)
    ∧ (regRead .caps0 t).1 = t.plat.maxWH ++ t.plat.maxWW
    ∧ t.lut.built = false ∧ t.rngState = 1 ∧ t.diff = ⟨[], none⟩ ∧ t.phase = .idle ∧ irq t = false
  values State.reset
    ∧ (∀ (s : State) (ws : List PortWrite) (n : Nat) (torn : BitVec 4), values (hostAct ws (.resetOn n torn) s))
    ∧ ∀ (s t : State) (n : Nat) (torn : BitVec 4) (rest : List HostItem), s.phase = .idle →
        s.script = .resetOn n torn :: rest → step s = .next t → values t ∧ t.mem = s.mem ∧ t.plat = s.plat

/-- 70_reset_and_hazards.md section 1 and 20_memory.md section 4: reset at any point of any row of UPSCALE, of a DUMP or of
the UPSCALE stage of a RUN_FRAME (whose last step it is, log entry 12): a prefix of the writes is performed, each byte of
the next holds its new or its old value, nothing else changes in memory, and the block is in the state after reset. The
points of a row and the item that says what is performed are the model's (log entries 7 and 22). -/
def Obligations.ResetDuringUpscale : Prop :=
  (∀ s : State, s.mem.wf = true → s.valid.cbuf = true → DestinationTakes s (dimLo s.dims.src * dimHi s.dims.src) 4 →
      ResetInRow .upscale s 1 s.cfg.dstBase.toNat (dimLo s.dims.src) (dimHi s.dims.src) 4
        (outByte s.bufs.cbuf (workW s) (workH s) s.dims.scale.toNat))
    ∧ (∀ s : State, s.mem.wf = true →
      (s.valid.ibuf = true → DumpResets .dumpIbuf 1 (fun x y _ => px s.bufs.ibuf x y) s)
        ∧ (s.valid.tbuf = true → DumpResets .dumpTbuf 1 (fun x y _ => px s.bufs.tbuf x y) s)
        ∧ (s.valid.mbuf = true → DumpResets .dumpMbuf 1 (fun x y _ => px s.bufs.mbuf x y) s)
        ∧ (s.valid.dbuf = true → DumpResets .dumpDbuf 1 (fun x y _ => px s.bufs.dbuf x y) s)
        ∧ (s.valid.cbuf = true → DumpResets .dumpCbuf 3
            (fun x y k => [(cpx s.bufs.cbuf x y).r, (cpx s.bufs.cbuf x y).g, (cpx s.bufs.cbuf x y).b].getD k 0) s))
    ∧ ∀ (s : State) (c : Word) (row : Nat), s.phase = .run c .depth row → s.status.pending = false → s.mem.wf = true →
        s.race.touched = [] → WritesGo s s.snap.dstBase.toNat (dimLo s.dims.src * dimHi s.dims.src) 4 →
        ResetInRow .runFrame s (2 * max 1 (2 * workH s) + 2) s.snap.dstBase.toNat (dimLo s.dims.src)
          (dimHi s.dims.src) 4 (outByte (tailCbuf s) (workW s) (workH s) s.dims.scale.toNat)

/-! ### The register port -/

/-- R40 and R420: STATUS as it reads and as a write clears it, and the interrupt line. -/
def Obligations.StatusAndIrq : Prop :=
  (∀ (s : State) (i : Nat), (statusWord s).getLsbD i
      = ([busy s, s.status.done, s.status.err, s.status.preempt, s.status.pending, s.status.styleUnk,
          s.status.msizeFb].getD i false))
    ∧ (∀ s : State, s.inReset = false →
        portRead 0x014 4 s = { s with portLog := .data (statusWord s) :: s.portLog })
    ∧ (∀ (s : State) (v : Word), s.inReset = false → portWrite 0x014 4 v s =
        { s with status := { s.status with
            done := s.status.done && !v.getLsbD 1
            err := s.status.err && !v.getLsbD 2
            preempt := s.status.preempt && !v.getLsbD 3 } })
    ∧ statusWord State.reset = 0
    ∧ (∀ s : State, irq s = true ↔ s.status.done = true ∧ s.irqEn.doneIe = true
        ∨ s.status.err = true ∧ s.irqEn.errIe = true ∨ s.status.preempt = true ∧ s.irqEn.preemptIe = true)
    ∧ ∀ (s : State) (v : Word), s.inReset = false → (irq (portWrite 0x018 4 v s) = true ↔
        s.status.done = true ∧ v.getLsbD 0 = true ∨ s.status.err = true ∧ v.getLsbD 1 = true
          ∨ s.status.preempt = true ∧ v.getLsbD 2 = true)

/-- 10_state.md section 3: a write of a read-write register sets the bits it has and no others, a 0 written to RNG_SEED
stores 1, no other register reads otherwise but BUF_VALID (whose LUT_V follows the tone registers), and a write of a
read-only register is ignored; a port read answers a read-write register's value; what the read-only registers read as, the latched dimensions and the LUT window while
the engine is IDLE and while it is RUNNING (section 6). -/
def Obligations.RegisterReadback : Prop :=
  (∀ (r : Reg) (v : Word) (s : State), s.inReset = false →
    let t := portWrite (BitVec.ofNat 12 (regOffset r)) 4 v s
    (∀ m, writeMask r = some m →
      (regRead r t).1 = (if r = .rngSeed ∧ v = 0 then 1 else v &&& m)
        ∧ ∀ r', r' ≠ r → r' ≠ .bufValid → (regRead r' t).1 = (regRead r' s).1)
    ∧ (writeMask r = none → r ≠ .cmd → r ≠ .status → t = s))
    ∧ ∀ s : State, s.inReset = false →
      let reads (r : Reg) (v : Word) : Prop :=
        portRead (BitVec.ofNat 12 (regOffset r)) 4 s = { s with portLog := .data v :: s.portLog }
      let drawn (r : Reg) (ok : Word → Prop) : Prop :=
        ∃ v n, portRead (BitVec.ofNat 12 (regOffset r)) 4 s = { s with portLog := .data v :: s.portLog, free := n } ∧ ok v
      let lutV := s.lut.built && decide (s.lut.key = s.cfg.tone)
      let bit (b : Bool) (i : Nat) : Word := (BitVec.ofBool b).setWidth 32 <<< i
      let lut (j : Fin 64) (b : Nat) : Byte := s.lut.ram.get (Fin.ofNat 256 (4 * j.val + b))
      (∀ r, r = .status ∨ (writeMask r).isSome = true → reads r (regRead r s).1)
        ∧ reads .id 0x544C5554 ∧ reads .version 0x00010007 ∧ reads .caps0 (s.plat.maxWH ++ s.plat.maxWW)
        ∧ reads .caps1 0x00000010 ∧ reads .cmd 0 ∧ reads .errCode (0#20 ++ s.report.op ++ s.report.code)
        ∧ reads .errAddr s.report.addr
        ∧ reads .bufValid (bit s.valid.ibuf 0 ||| bit s.valid.tbuf 1 ||| bit s.valid.mbuf 2 ||| bit s.valid.dbuf 3
            ||| bit s.valid.cbuf 4 ||| bit lutV 5)
        ∧ (busy s = false → reads .workDim s.dims.work ∧ reads .latSrcDim s.dims.src
            ∧ reads .latScale (0#16 ++ s.dims.scale)
            ∧ ∀ j : Fin 64, reads (.lutWin j) (lut j 3 ++ lut j 2 ++ lut j 1 ++ lut j 0))
        ∧ (busy s = true → drawn .workDim (fun v => v = s.dims.work ∨ v = s.dimsBefore.work)
            ∧ drawn .latSrcDim (fun v => v = s.dims.src ∨ v = s.dimsBefore.src)
            ∧ drawn .latScale (fun v => v = 0#16 ++ s.dims.scale ∨ v = 0#16 ++ s.dimsBefore.scale)
            ∧ ∀ j : Fin 64, drawn (.lutWin j) fun _ => True)

/-- 10_state.md section 6: an access that is not 32 bits wide at a word-aligned offset gets an error response and changes
nothing else (R85); a reserved offset reads 0 and ignores writes (R86). And 70_reset_and_hazards.md section 1: while
reset is asserted every register ignores writes and reads 0; that a bad access gets its error response then too is
inferred between R85 and R440 (log entry 22). -/
def Obligations.PortErrors : Prop :=
  (∀ (off : BitVec 12) (nbytes : Nat) (v : Word) (s : State), nbytes ≠ 4 ∨ off.toNat % 4 ≠ 0 →
      portWrite off nbytes v s = { s with portLog := .error :: s.portLog }
        ∧ portRead off nbytes s = { s with portLog := .error :: s.portLog })
    ∧ (∀ (off : BitVec 12) (v : Word) (s : State), off.toNat % 4 = 0 →
        off = 0x038 ∨ off = 0x03C ∨ 0x080 ≤ off ∧ off < 0x100 ∨ 0x140 ≤ off ∧ off < 0x200 ∨ 0x300 ≤ off →
        portWrite off 4 v s = s ∧ portRead off 4 s = { s with portLog := .data 0 :: s.portLog })
    ∧ ∀ (off : BitVec 12) (v : Word) (s : State), off.toNat % 4 = 0 → s.inReset = true →
        portWrite off 4 v s = s ∧ portRead off 4 s = { s with portLog := .data 0 :: s.portLog }

/-! ### Values -/

/-- R228: the table of LUT values, the rounding ties and the contrast factor at c = 100; and that the neutral tuple is
the identity on all 256 levels. -/
def Obligations.LutValues : Prop :=
  let at13 (c : Int) (m h t : Nat) (inv : Bool) : List Nat :=
    [0, 1, 16, 64, 100, 127, 128, 129, 160, 192, 200, 254, 255].map fun i =>
      (lutEntry ⟨BitVec.ofInt 16 c, BitVec.ofNat 16 m, BitVec.ofNat 16 h, BitVec.ofNat 8 t, inv⟩ i).toNat
  at13 0 50 50 128 false = [0, 1, 16, 64, 100, 127, 128, 129, 160, 192, 200, 254, 255]
    ∧ at13 0 50 50 128 true = [255, 254, 239, 191, 155, 128, 127, 126, 95, 63, 55, 1, 0]
    ∧ at13 0 50 50 100 false = [28, 29, 44, 92, 128, 155, 156, 157, 188, 220, 228, 255, 255]
    ∧ at13 0 50 50 255 false = [0, 0, 0, 0, 0, 0, 1, 2, 33, 65, 73, 127, 128]
    ∧ at13 0 50 50 0 false = [128, 129, 144, 192, 228, 255, 255, 255, 255, 255, 255, 255, 255]
    ∧ at13 100 50 50 128 false = [0, 0, 0, 0, 65, 126, 128, 130, 201, 255, 255, 255, 255]
    ∧ at13 (-100) 50 50 128 false = [72, 72, 79, 100, 116, 128, 128, 128, 142, 156, 160, 183, 184]
    ∧ (∀ i : Fin 256, lutEntry ⟨BitVec.ofInt 16 (-255), 50, 50, 128, false⟩ i.val = 128)
    ∧ at13 258 50 50 128 false = [0, 0, 0, 0, 0, 0, 128, 255, 255, 255, 255, 255, 255]
    ∧ at13 (-32768) 50 50 128 false = [255, 255, 240, 192, 156, 129, 128, 127, 96, 64, 56, 2, 1]
    ∧ at13 0 25 50 128 false = [0, 0, 8, 32, 50, 64, 128, 129, 160, 192, 200, 254, 255]
    ∧ at13 0 50 100 128 false = [0, 1, 16, 64, 100, 127, 128, 130, 192, 255, 255, 255, 255]
    ∧ at13 0 0 0 128 false = [0, 0, 0, 0, 0, 0, 128, 128, 128, 128, 128, 128, 128]
    ∧ at13 0 100 50 128 false = [0, 2, 32, 128, 200, 254, 128, 129, 160, 192, 200, 254, 255]
    ∧ at13 50 70 30 140 true = [255, 255, 255, 234, 159, 103, 101, 99, 109, 81, 74, 51, 51]
    ∧ [1, 3, 5].map (fun i => fMul (splitStep ⟨0, 25, 50, 128, false⟩ (fDiv (fOfNat i) f255)) f255)
      = [fOfRat 1 2, fOfRat 3 2, fOfRat 5 2]
    ∧ [1, 3, 5].map (lutEntry ⟨0, 25, 50, 128, false⟩) = [0, 2, 2]
    ∧ fDiv (fOfInt (259 * (100 + 255))) (fOfInt (255 * (259 - 100))) = fOfRat 2267727216672833 1000000000000000
    ∧ ∀ i : Fin 256, lutEntry Tone.reset i.val = BitVec.ofNat 8 i.val

/-- R206: the gray pixels whose sum lies below their level and whose luminance is one less; that no sum passes 255, so
the clamp changes nothing. And the further values of R207. -/
def Obligations.LumGrays : Prop :=
  [lum 255 0 0, lum 0 255 0, lum 0 0 255, lum 100 150 200, lum 50 60 70] = [76, 149, 29, 140, 58] ∧ ∀ g : Fin 256,
    let below := g.val ∈ [1, 2, 4, 8, 11, 13, 16, 22, 26, 27, 32, 39, 44, 51, 52, 54, 57, 59, 61, 64, 78, 81, 88, 91, 95,
      101, 102, 104, 108, 114, 115, 118, 122, 127, 128, 143, 149, 156, 157, 162, 169, 175, 176, 182, 183, 190, 195, 202,
      203, 204, 208, 209, 216, 223, 225, 228, 230, 235, 236, 239, 241, 244, 249, 251, 254]
    let v := fOfNat g.val
    let sum := fAdd (fAdd (fMul f0299 v) (fMul f0587 v)) (fMul f0114 v)
    lum (BitVec.ofNat 8 g.val) (BitVec.ofNat 8 g.val) (BitVec.ofNat 8 g.val)
        = (if below then BitVec.ofNat 8 (g.val - 1) else BitVec.ofNat 8 g.val)
      ∧ (fLt sum v = true ↔ below) ∧ fLe f0 sum = true ∧ fLe sum f255 = true

/-- R301: the recursion, its values, that B(n) holds each of 0 .. n² - 1 once, and the scaled 2 × 2 matrix. -/
def Obligations.BayerMatrices : Prop :=
  let matrix (k : Nat) : List (List Nat) := (List.range (2 ^ k)).map fun y => (List.range (2 ^ k)).map fun x => bayer k x y
  (∀ k x y, x < 2 ^ (k + 1) → y < 2 ^ (k + 1) →
      bayer (k + 1) x y = 4 * bayer k (x % 2 ^ k) (y % 2 ^ k)
        + (([[0, 2], [3, 1]] : List (List Nat)).getD (y / 2 ^ k) []).getD (x / 2 ^ k) 0)
    ∧ matrix 0 = [[0]] ∧ matrix 1 = [[0, 2], [3, 1]]
    ∧ matrix 2 = [[0, 8, 2, 10], [12, 4, 14, 6], [3, 11, 1, 9], [15, 7, 13, 5]]
    ∧ matrix 3 = [[0, 32, 8, 40, 2, 34, 10, 42], [48, 16, 56, 24, 50, 18, 58, 26], [12, 44, 4, 36, 14, 46, 6, 38],
        [60, 28, 52, 20, 62, 30, 54, 22], [3, 35, 11, 43, 1, 33, 9, 41], [51, 19, 59, 27, 49, 17, 57, 25],
        [15, 47, 7, 39, 13, 45, 5, 37], [63, 31, 55, 23, 61, 29, 53, 21]]
    ∧ (matrix 4).getD 0 [] = [0, 128, 32, 160, 8, 136, 40, 168, 2, 130, 34, 162, 10, 138, 42, 170]
    ∧ (matrix 4).getD 1 [] = [192, 64, 224, 96, 200, 72, 232, 104, 194, 66, 226, 98, 202, 74, 234, 106]
    ∧ (matrix 4).getD 15 [] = [255, 127, 223, 95, 247, 119, 215, 87, 253, 125, 221, 93, 245, 117, 213, 85]
    ∧ (∀ k ∈ [1, 2, 3, 4], ∀ v, v < 2 ^ k * 2 ^ k → (matrix k).flatten.count v = 1)
    ∧ [1, 2, 3, 4].map (fun k => 256 / (2 ^ k * 2 ^ k)) = [64, 16, 4, 1]
    ∧ (∀ k x y, bayerScaled k x y = bayer k (x % 2 ^ k) (y % 2 ^ k) * (256 / (2 ^ k * 2 ^ k)))
    ∧ [[bayerScaled 1 0 0, bayerScaled 1 1 0], [bayerScaled 1 0 1, bayerScaled 1 1 1]] = [[0, 128], [192, 64]]

/-- 47_palette_interp.md: level 0 is the first stop and level 255 the last of any palette, one stop gives a flat
colour, and the palette after reset gives grays; a stop's red, green and blue are bits 7..0, 15..8 and 23..16 of its
register (10_state.md R72). -/
def Obligations.PaletteEnds : Prop :=
  (∀ (stops : Vector (BitVec 24) 16) (k : Fin 16),
      stopOf stops k.val
        = ⟨(stops.get k).extractLsb' 0 8, (stops.get k).extractLsb' 8 8, (stops.get k).extractLsb' 16 8⟩)
    ∧ (∀ (stops : Vector (BitVec 24) 16) (n : Nat), 1 ≤ n → n ≤ 16 →
      palMap stops n 0 = stopOf stops 0 ∧ palMap stops n 255 = stopOf stops (n - 1))
    ∧ (∀ (stops : Vector (BitVec 24) 16) (g : Byte), palMap stops 1 g = stopOf stops 0)
    ∧ ∀ g : Byte, palMap Cfg.reset.pal 2 g = ⟨g, g, g⟩

/-- R256: one xorshift32 step, that it keeps the state nonzero, the first six states from 1, and the result, which is
exactly the state over 2^32 and lies between 2^-32 and 1 - 2^-32. -/
def Obligations.RandomSource : Prop :=
  (∀ x : Word, xorshift x =
      (let a := x ^^^ (x <<< 13)
       let b := a ^^^ (a >>> 17)
       b ^^^ (b <<< 5)))
    ∧ (∀ x : Word, x ≠ 0 → xorshift x ≠ 0)
    ∧ [1, 2, 3, 4, 5, 6].map (fun n => drawn n 1)
      = [0x00042021, 0x04080601, 0x9DCCA8C5, 0x1255994F, 0x8EF917D1, 0x2C6F5BD0]
    ∧ randOf (drawn 1 1) = fOfRat 6295018829405308 100000000000000000000
    ∧ (∀ x : Word, fNeg (randOf x) = false ∧ fUnits (fMag (randOf x)) * 4294967296 = x.toNat * fOne)
    ∧ ∀ x : Word, x ≠ 0 → fLe (fOfRat 1 4294967296) (randOf x) = true
        ∧ fLe (randOf x) (fOfRat 4294967295 4294967296) = true

/-- 00_scope.md section 4: rounding to nearest, ties to even: no representable magnitude is nearer to num/den (in units
of 2^-1074) than the one chosen, of two equally near it is the even one, and the infinity is chosen exactly from half
an ulp above the largest finite value on. The root is rounded so too: it lies on the right side of the middle between
the one chosen and any other. And the remainder of fmod is exact, with the sign of its first argument. -/
def Obligations.RoundNearest : Prop :=
  (∀ num den : Nat, 0 < den →
    (fRound num den = fInfMag ↔ (2 ^ 54 - 1) * 2 ^ 2044 * den ≤ num)
      ∧ (fRound num den < fInfMag → ∀ m, m < fInfMag →
          ((num : Int) - fUnits (fRound num den) * den).natAbs ≤ ((num : Int) - fUnits m * den).natAbs
            ∧ (((num : Int) - fUnits (fRound num den) * den).natAbs = ((num : Int) - fUnits m * den).natAbs →
                m = fRound num den ∨ fRound num den % 2 = 0)))
    ∧ (∀ a : F64,
        (fIsNaN a = true ∨ fNeg a = true ∧ fMag a ≠ 0 → fIsNaN (fSqrt a) = true)
          ∧ (fMag a = 0 ∨ fNeg a = false ∧ fMag a = fInfMag → fSqrt a = a)
          ∧ (fNeg a = false → 0 < fMag a → fMag a < fInfMag →
              let n := fUnits (fMag a) * fOne
              let r := fMag (fSqrt a)
              fNeg (fSqrt a) = false ∧ r < fInfMag
                ∧ ∀ m, m < fInfMag →
                  let mid2 := (fUnits m + fUnits r) * (fUnits m + fUnits r)
                  (m < r → mid2 ≤ 4 * n) ∧ (r < m → 4 * n ≤ mid2) ∧ (m ≠ r → mid2 = 4 * n → r % 2 = 0)))
    ∧ ∀ a b : F64,
        (fIsNaN a = true ∨ fIsNaN b = true ∨ fMag a = fInfMag ∨ fMag b = 0 → fIsNaN (fMod a b) = true)
          ∧ (fMag a < fInfMag → fMag b = fInfMag → fMod a b = a)
          ∧ (fMag a < fInfMag → 0 < fMag b → fMag b < fInfMag →
              fNeg (fMod a b) = fNeg a ∧ fMag (fMod a b) < fInfMag
                ∧ fUnits (fMag (fMod a b)) = fUnits (fMag a) % fUnits (fMag b))

/-! ### Endings -/

/-- 70_reset_and_hazards.md section 4: a command on which nothing lands ends within three steps of the model (log entry
12), unless the model stops for a device region or for memory that does not exist (log entry 21). And 20_memory.md
section 3: a launch whose checks pass is refused exactly where an address of its regions is a device register (log
entry 20). -/
def Obligations.CommandEnds : Prop :=
  (∀ s : State, Quiet s → (∃ t, steps 3 s = .next t ∧ t.phase = .idle) ∨ steps 3 s = .fault .outsideFrameMemory
    ∨ steps 3 s = .refused .deviceRegion)
    ∧ ∀ (i : Instr) (s : State), isCommand i = true → s.script = [] → NotMidFrame s →
      (exec i s = .refused .deviceRegion ↔
        tableError i s = none ∧ ∃ a, (∃ r ∈ launchRegions i s, inRegion r a) ∧ ∃ d ∈ s.plat.devices, inRegion d a)

/-- 40_commands.md section 1: a pending word abandons the running command at its next row boundary: every valid bit is
cleared, PREEMPT is set, the word goes into acceptance, of the rows exactly those so far have been done, and the LUT and
the random state are as those rows leave them. First a
word that is pending from the start: a variant and UPSCALE are abandoned after row 0. Then a word that lands in row Y,
or between two stages: a command is abandoned after that row, or there. The count of landing points is the model's (log
entry 7), RUN_FRAME's division into steps too (log entry 12). -/
def Obligations.PendingAbandons : Prop :=
  (∀ (i : Instr) (s : State) (row : Nat) (c : Word), isCommand i = false → s.script = [] →
      s.status.pending = true → s.phase = .run c .dither row → 2 ≤ workH s →
      ∃ t, exec i s = .next t ∧ AbandonedFor s.pendCmd s.status t ∧ t.lut = s.lut
        ∧ t.rngState = (if draws i = true then drawn (workW s) s.rngState else s.rngState)
        ∧ ∀ a, t.mem.read a = s.mem.read a)
    ∧ (∀ s : State, s.script = [] → s.status.pending = true → s.mem.wf = true → s.valid.cbuf = true →
        DestinationTakes s (dimLo s.dims.src * dimHi s.dims.src) 4 → 2 ≤ dimHi s.dims.src →
        ∃ t, exec .upscale s = .next t ∧ AbandonedFor s.pendCmd { s.status with done := false, err := false } t
          ∧ t.lut = s.lut ∧ t.rngState = s.rngState ∧ t.dims = s.dims
          ∧ PixelRowsWritten s t s.bufs.cbuf s.cfg.dstBase.toNat (dimLo s.dims.src) 1)
    ∧ (∀ s : State, s.status.pending = false → s.inReset = false → s.mem.wf = true →
        (SourceFits s → SourceReadable s →
          AbandonsAfterRow .sample s 2 (nextW s + 2) (nextH s) fun Y t =>
            t.bufs.ibuf.length = Y + 1 ∧ t.lut = s.lut ∧ t.rngState = s.rngState ∧ t.mem = s.mem
              ∧ t.dims = ⟨BitVec.ofNat 16 (nextH s) ++ BitVec.ofNat 16 (nextW s), s.cfg.srcDim, s.cfg.scale⟩)
        ∧ (s.valid.ibuf = true → lutFits s ∨ ¬pole s →
          AbandonsAfterRow .tonemap s 2 2 (workH s) fun Y t =>
            t.bufs.tbuf.length = Y + 1 ∧ t.lut = nextLut s ∧ t.rngState = s.rngState ∧ t.mem = s.mem ∧ t.dims = s.dims)
        ∧ (s.valid.mbuf = true →
          AbandonsAfterRow .depth s 1 2 (workH s) fun Y t =>
            t.bufs.dbuf.length = Y + 1 ∧ t.lut = s.lut ∧ t.rngState = s.rngState ∧ t.mem = s.mem ∧ t.dims = s.dims)
        ∧ (s.valid.dbuf = true → 1 ≤ s.cfg.palCount.toNat → s.cfg.palCount.toNat ≤ 16 →
          AbandonsAfterRow .palette s 1 2 (workH s) fun Y t =>
            t.bufs.cbuf.length = Y + 1 ∧ t.lut = s.lut ∧ t.rngState = s.rngState ∧ t.mem = s.mem ∧ t.dims = s.dims)
        ∧ (s.valid.cbuf = true → DestinationTakes s (dimLo s.dims.src * dimHi s.dims.src) 4 →
          AbandonsAfterRow .upscale s 1 (dimLo s.dims.src + 2) (dimHi s.dims.src) fun Y t =>
            t.lut = s.lut ∧ t.rngState = s.rngState ∧ t.dims = s.dims
              ∧ PixelRowsWritten s t s.bufs.cbuf s.cfg.dstBase.toNat (dimLo s.dims.src) (Y + 1))
        ∧ (s.valid.ibuf = true → DumpAbandons .dumpIbuf 1 (fun x y _ => px s.bufs.ibuf x y) s)
        ∧ (s.valid.tbuf = true → DumpAbandons .dumpTbuf 1 (fun x y _ => px s.bufs.tbuf x y) s)
        ∧ (s.valid.mbuf = true → DumpAbandons .dumpMbuf 1 (fun x y _ => px s.bufs.mbuf x y) s)
        ∧ (s.valid.dbuf = true → DumpAbandons .dumpDbuf 1 (fun x y _ => px s.bufs.dbuf x y) s)
        ∧ (s.valid.cbuf = true → DumpAbandons .dumpCbuf 3
            (fun x y k => [(cpx s.bufs.cbuf x y).r, (cpx s.bufs.cbuf x y).g, (cpx s.bufs.cbuf x y).b].getD k 0) s))
    ∧ (∀ (i : Instr) (s : State) (c w : Word) (row m : Nat), isCommand i = false → s.script = wordAt m w →
        s.status.pending = false → s.inReset = false → s.phase = .run c .dither row →
        (if decodeCmd c = .runFrame then m < max 1 (2 * workH s) + 1 else m + 2 < 2 * workH s) →
        ∃ t, exec i s = .next t ∧ AbandonedFor w s.status t ∧ t.lut = s.lut ∧ t.mem = s.mem
          ∧ t.bufs.mbuf.length = min (m / 2 + 1) (workH s)
          ∧ t.rngState = (if draws i = true then drawn (min (m / 2 + 1) (workH s) * workW s) s.rngState
              else s.rngState))
    ∧ (∀ (s : State) (w : Word) (m : Nat), s.script = wordAt m w → s.status.pending = false → s.inReset = false →
        NotMidFrame s → FrameRuns s → m < nextH s * (nextW s + 4) + 5 →
        ∃ t, exec .runFrame s = .next t ∧ AbandonedFor w { s.status with done := false, err := false } t
          ∧ t.lut = (if m < nextH s * (nextW s + 2) + 3 then s.lut else nextLut s) ∧ t.rngState = s.rngState
          ∧ t.mem = s.mem)
    ∧ ∀ (s : State) (c w : Word) (row m : Nat), s.script = wordAt m w → s.status.pending = false → s.inReset = false →
        s.phase = .run c .depth row → s.mem.wf = true → s.race.touched = [] →
        WritesGo s s.snap.dstBase.toNat (dimLo s.dims.src * dimHi s.dims.src) 4 →
        let done := 2 * max 1 (2 * workH s) + 2
        (m < done → ∃ t, exec .runFrame s = .next t ∧ AbandonedFor w s.status t ∧ t.lut = s.lut
            ∧ t.rngState = s.rngState ∧ t.dims = s.dims ∧ t.mem = s.mem)
          ∧ ∀ Y, Y + 1 < dimHi s.dims.src → done + Y * (dimLo s.dims.src + 2) ≤ m →
              m < done + (Y + 1) * (dimLo s.dims.src + 2) →
              ∃ t, exec .runFrame s = .next t ∧ AbandonedFor w s.status t ∧ t.lut = s.lut ∧ t.rngState = s.rngState
                ∧ t.dims = s.dims ∧ PixelRowsWritten s t (tailCbuf s) s.snap.dstBase.toNat (dimLo s.dims.src) (Y + 1)

/-- 20_memory.md section 5: the values of the races are among those the rule lists, for every value of the free
choices (log entry 9); where the running command has not written an address, another agent's value stays. What a read of
the engine may return besides the byte in memory is what other agents' writes since acceptance replaced and wrote. -/
def Obligations.RacesAdmitted : Prop :=
  (∀ (a : Nat) (s : State), (engineRead a s).1 = s.mem.read a ∨ (engineRead a s).1 ∈ recorded s.race.touched a)
    ∧ (∀ (a : Nat) (v : Byte) (s : State), s.mem.wf = true →
        ((engineWrite a v s).mem.read a = v ∨ (engineWrite a v s).mem.read a = s.mem.read a)
          ∧ (recorded s.race.touched a = [] → (engineWrite a v s).mem.read a = v)
          ∧ (engineWrite a v s).race.touched = s.race.touched
          ∧ newValues (engineWrite a v s).race.wrote a = v :: newValues s.race.wrote a
          ∧ oldValues (engineWrite a v s).race.wrote a = s.mem.read a :: oldValues s.race.wrote a)
    ∧ (∀ (a : Nat) (v : Byte) (s : State), s.mem.wf = true →
        ((otherWrite a v s).mem.read a = v ∨ (otherWrite a v s).mem.read a ∈ newValues s.race.wrote a)
          ∧ (newValues s.race.wrote a = [] → (otherWrite a v s).mem.read a = v)
          ∧ (otherWrite a v s).race.wrote = s.race.wrote
          ∧ (busy s = true → ∀ x, recorded (otherWrite a v s).race.touched x
              = recorded s.race.touched x ++ (if x = a then [s.mem.read a, v] else []))
          ∧ (busy s = false → (otherWrite a v s).mem.read a = v ∧ (otherWrite a v s).race = s.race))
    ∧ (∀ (w : Word) (s : State), (accept w s).race = ⟨[], []⟩)
    ∧ (∀ (a : Nat) (flight : List Byte) (s : State),
        ((otherRead flight a s).1 = s.mem.read a ∨ (otherRead flight a s).1 ∈ oldValues s.race.wrote a
            ∨ (otherRead flight a s).1 ∈ newValues s.race.wrote a ∨ (otherRead flight a s).1 ∈ flight)
          ∧ (newValues s.race.wrote a = [] → flight = [] → (otherRead flight a s).1 = s.mem.read a)
          ∧ (busy s = false → (otherRead flight a s).1 = s.mem.read a))
    ∧ ∀ (a : Nat) (ws : List PortWrite) (s : State) (b : Byte), b ∈ inFlight ws a s →
        ∃ w rest, ws = w :: rest ∧ refuses s w.addr w.bytes.length .write = false ∧ w.addr ≤ a
          ∧ a < w.addr + w.bytes.length ∧ b = w.bytes.getD (a - w.addr) 0
end

