-- ==== Sys2Proof/Laws/Float.lean ====
section
/-! SUPPORT. Facts about the binary64 operations of Machine/Float.lean. -/

namespace Sys2Proof.Machine

/-- The place of the highest one bit, found by halving. -/
theorem fLog2_spec (f n : Nat) (h0 : 0 < n) (h : n < 2 ^ 2 ^ f) : 2 ^ fLog2 f n ≤ n ∧ n < 2 ^ (fLog2 f n + 1) := by
  induction f generalizing n with
  | zero =>
    have : n = 1 := by
      have : n < 2 := by simpa using h
      omega
    subst this
    simp [fLog2]
  | succ f ih =>
    have hs : (1 : Nat) <<< f = 2 ^ f := by simp [Nat.shiftLeft_eq]
    unfold fLog2
    rw [hs, Nat.shiftRight_eq_div_pow]
    have hp : 0 < 2 ^ 2 ^ f := Nat.two_pow_pos _
    split
    · rename_i hz
      exact ih n h0 ((Nat.div_eq_zero_iff_lt hp).1 hz)
    · rename_i hz
      have hm : 0 < n / 2 ^ 2 ^ f := Nat.pos_of_ne_zero hz
      have hm2 : n / 2 ^ 2 ^ f < 2 ^ 2 ^ f := by
        rw [Nat.div_lt_iff_lt_mul hp, ← Nat.pow_add]
        have : 2 ^ f + 2 ^ f = 2 ^ (f + 1) := by rw [Nat.pow_succ]; omega
        rwa [this]
      obtain ⟨h1, h2⟩ := ih _ hm hm2
      constructor
      · rw [Nat.pow_add, Nat.mul_comm]
        exact (Nat.le_div_iff_mul_le hp).1 h1
      · rw [Nat.add_assoc, Nat.pow_add, Nat.mul_comm]
        exact (Nat.div_lt_iff_lt_mul hp).1 h2

/-- `fLog2` is `Nat.log2` on every number the rounding meets. -/
theorem fLog2_eq (n : Nat) (h : n < 2 ^ 2 ^ 12) : fLog2 12 n = Nat.log2 n := by
  rcases Nat.eq_zero_or_pos n with h0 | h0
  · subst h0
    decide
  · obtain ⟨h1, h2⟩ := fLog2_spec 12 n h0 h
    have hn : n ≠ 0 := Nat.pos_iff_ne_zero.1 h0
    have h3 := (Nat.le_log2 hn).2 h1
    have h4 := (Nat.log2_lt hn).2 h2
    omega

/-- `divRne` is a nearest whole number: it is off by at most half of the divisor. -/
theorem divRne_near (num den : Nat) (h : 0 < den) :
    2 * num ≤ 2 * (divRne num den * den) + den ∧ 2 * (divRne num den * den) ≤ 2 * num + den := by
  have hd := Nat.div_add_mod num den
  have hm := Nat.mod_lt num h
  rw [Nat.mul_comm] at hd
  unfold divRne
  split
  · rw [Nat.add_mul]
    omega
  · omega

/-- The integer square root, found from the highest bit down. -/
theorem isqrt_spec (k n r : Nat) (h1 : r * r ≤ n) (h2 : n < (r + 2 ^ k) * (r + 2 ^ k)) :
    isqrt k n r * isqrt k n r ≤ n ∧ n < (isqrt k n r + 1) * (isqrt k n r + 1) := by
  induction k generalizing r with
  | zero => exact ⟨h1, h2⟩
  | succ k ih =>
    have hs : (1 : Nat) <<< k = 2 ^ k := by simp [Nat.shiftLeft_eq]
    unfold isqrt
    rw [hs]
    split
    · rename_i h
      refine ih _ h ?_
      rwa [Nat.add_assoc, ← Nat.two_mul, Nat.mul_comm 2, ← Nat.pow_succ]
    · rename_i h
      exact ih r h1 (Nat.lt_of_not_le h)

/-- The magnitude bits of a value made from a sign and magnitude bits. -/
theorem fMag_fMk (neg : Bool) (m : Nat) (h : m < 0x8000000000000000) : fMag (fMk neg m) = m := by
  unfold fMag fMk
  cases neg <;> simp [BitVec.toNat_ofNat] <;> omega

/-- A rounded magnitude is at most the infinity's. -/
theorem fRound_le (num den : Nat) : fRound num den ≤ fInfMag := Nat.min_le_right _ _

/-! ### The literals of the rules, as the values they stand for -/

theorem f0_eq : f0 = fOfNat 0 := by decide +kernel
theorem fHalf_eq : fHalf = fOfRat 1 2 := by decide +kernel
theorem f50_eq : f50 = fOfNat 50 := by decide +kernel
theorem f128_eq : f128 = fOfNat 128 := by decide +kernel
theorem f255_eq : f255 = fOfNat 255 := by decide +kernel
theorem f0299_eq : f0299 = fOfRat 299 1000 := by decide +kernel
theorem f0587_eq : f0587 = fOfRat 587 1000 := by decide +kernel
theorem f0114_eq : f0114 = fOfRat 114 1000 := by decide +kernel

end Sys2Proof.Machine
end

