-- ==== Sys2Proof/Laws/State.lean ====
section
/-! SUPPORT. What each named update of the state does to each field: one lemma per field, true by unfolding, so that
no later proof unfolds a record update. -/

namespace Sys2Proof.Machine

/-! ### accept -/

@[simp] theorem accept_cfg (w : Word) (s : State) : (accept w s).cfg = s.cfg := rfl
@[simp] theorem accept_snap (w : Word) (s : State) : (accept w s).snap = s.cfg := rfl
@[simp] theorem accept_status (w : Word) (s : State) :
    (accept w s).status = { s.status with done := false, err := false } := rfl
@[simp] theorem accept_irqEn (w : Word) (s : State) : (accept w s).irqEn = s.irqEn := rfl
@[simp] theorem accept_report (w : Word) (s : State) : (accept w s).report = ⟨0, 0, 0⟩ := rfl
@[simp] theorem accept_valid (w : Word) (s : State) : (accept w s).valid = s.valid := rfl
@[simp] theorem accept_dims (w : Word) (s : State) : (accept w s).dims = s.dims := rfl
@[simp] theorem accept_dimsBefore (w : Word) (s : State) : (accept w s).dimsBefore = s.dims := rfl
@[simp] theorem accept_lut (w : Word) (s : State) : (accept w s).lut = s.lut := rfl
@[simp] theorem accept_bufs (w : Word) (s : State) : (accept w s).bufs = s.bufs := rfl
@[simp] theorem accept_rngState (w : Word) (s : State) : (accept w s).rngState = s.rngState := rfl
@[simp] theorem accept_diff (w : Word) (s : State) : (accept w s).diff = s.diff := rfl
@[simp] theorem accept_phase (w : Word) (s : State) : (accept w s).phase = .run w .start 0 := rfl
@[simp] theorem accept_pendCmd (w : Word) (s : State) : (accept w s).pendCmd = s.pendCmd := rfl
@[simp] theorem accept_mem (w : Word) (s : State) : (accept w s).mem = s.mem := rfl
@[simp] theorem accept_plat (w : Word) (s : State) : (accept w s).plat = s.plat := rfl
@[simp] theorem accept_inReset (w : Word) (s : State) : (accept w s).inReset = s.inReset := rfl
@[simp] theorem accept_script (w : Word) (s : State) : (accept w s).script = s.script := rfl
@[simp] theorem accept_portLog (w : Word) (s : State) : (accept w s).portLog = s.portLog := rfl
@[simp] theorem accept_race (w : Word) (s : State) : (accept w s).race = ⟨[], []⟩ := rfl
@[simp] theorem accept_free (w : Word) (s : State) : (accept w s).free = s.free := rfl

/-! ### endCommand -/

@[simp] theorem endCommand_cfg (s : State) : (endCommand s).cfg = s.cfg := rfl
@[simp] theorem endCommand_snap (s : State) : (endCommand s).snap = s.snap := rfl
@[simp] theorem endCommand_status (s : State) : (endCommand s).status = { s.status with pending := false } := rfl
@[simp] theorem endCommand_irqEn (s : State) : (endCommand s).irqEn = s.irqEn := rfl
@[simp] theorem endCommand_report (s : State) : (endCommand s).report = s.report := rfl
@[simp] theorem endCommand_valid (s : State) : (endCommand s).valid = s.valid := rfl
@[simp] theorem endCommand_dims (s : State) : (endCommand s).dims = s.dims := rfl
@[simp] theorem endCommand_dimsBefore (s : State) : (endCommand s).dimsBefore = s.dimsBefore := rfl
@[simp] theorem endCommand_lut (s : State) : (endCommand s).lut = s.lut := rfl
@[simp] theorem endCommand_bufs (s : State) : (endCommand s).bufs = s.bufs := rfl
@[simp] theorem endCommand_rngState (s : State) : (endCommand s).rngState = s.rngState := rfl
@[simp] theorem endCommand_diff (s : State) : (endCommand s).diff = ⟨[], none⟩ := rfl
@[simp] theorem endCommand_phase (s : State) :
    (endCommand s).phase = (if s.status.pending then .fetch s.pendCmd else .idle) := rfl
@[simp] theorem endCommand_pendCmd (s : State) : (endCommand s).pendCmd = s.pendCmd := rfl
@[simp] theorem endCommand_mem (s : State) : (endCommand s).mem = s.mem := rfl
@[simp] theorem endCommand_plat (s : State) : (endCommand s).plat = s.plat := rfl
@[simp] theorem endCommand_inReset (s : State) : (endCommand s).inReset = s.inReset := rfl
@[simp] theorem endCommand_script (s : State) : (endCommand s).script = s.script := rfl
@[simp] theorem endCommand_portLog (s : State) : (endCommand s).portLog = s.portLog := rfl
@[simp] theorem endCommand_race (s : State) : (endCommand s).race = ⟨[], []⟩ := rfl
@[simp] theorem endCommand_free (s : State) : (endCommand s).free = s.free := rfl

/-! ### writesPerformed -/

@[simp] theorem writesPerformed_cfg (s : State) : (writesPerformed s).cfg = s.cfg := rfl
@[simp] theorem writesPerformed_snap (s : State) : (writesPerformed s).snap = s.snap := rfl
@[simp] theorem writesPerformed_status (s : State) : (writesPerformed s).status = s.status := rfl
@[simp] theorem writesPerformed_irqEn (s : State) : (writesPerformed s).irqEn = s.irqEn := rfl
@[simp] theorem writesPerformed_report (s : State) : (writesPerformed s).report = s.report := rfl
@[simp] theorem writesPerformed_valid (s : State) : (writesPerformed s).valid = s.valid := rfl
@[simp] theorem writesPerformed_dims (s : State) : (writesPerformed s).dims = s.dims := rfl
@[simp] theorem writesPerformed_dimsBefore (s : State) : (writesPerformed s).dimsBefore = s.dimsBefore := rfl
@[simp] theorem writesPerformed_lut (s : State) : (writesPerformed s).lut = s.lut := rfl
@[simp] theorem writesPerformed_bufs (s : State) : (writesPerformed s).bufs = s.bufs := rfl
@[simp] theorem writesPerformed_rngState (s : State) : (writesPerformed s).rngState = s.rngState := rfl
@[simp] theorem writesPerformed_diff (s : State) : (writesPerformed s).diff = s.diff := rfl
@[simp] theorem writesPerformed_phase (s : State) : (writesPerformed s).phase = s.phase := rfl
@[simp] theorem writesPerformed_pendCmd (s : State) : (writesPerformed s).pendCmd = s.pendCmd := rfl
@[simp] theorem writesPerformed_mem (s : State) : (writesPerformed s).mem = s.mem := rfl
@[simp] theorem writesPerformed_plat (s : State) : (writesPerformed s).plat = s.plat := rfl
@[simp] theorem writesPerformed_inReset (s : State) : (writesPerformed s).inReset = s.inReset := rfl
@[simp] theorem writesPerformed_script (s : State) : (writesPerformed s).script = s.script := rfl
@[simp] theorem writesPerformed_portLog (s : State) : (writesPerformed s).portLog = s.portLog := rfl
@[simp] theorem writesPerformed_race (s : State) : (writesPerformed s).race = ⟨[], []⟩ := rfl
@[simp] theorem writesPerformed_free (s : State) : (writesPerformed s).free = s.free := rfl

/-! ### setDone -/

@[simp] theorem setDone_cfg (s : State) : (setDone s).cfg = s.cfg := rfl
@[simp] theorem setDone_snap (s : State) : (setDone s).snap = s.snap := rfl
@[simp] theorem setDone_status (s : State) : (setDone s).status = { s.status with done := true } := rfl
@[simp] theorem setDone_irqEn (s : State) : (setDone s).irqEn = s.irqEn := rfl
@[simp] theorem setDone_report (s : State) : (setDone s).report = s.report := rfl
@[simp] theorem setDone_valid (s : State) : (setDone s).valid = s.valid := rfl
@[simp] theorem setDone_dims (s : State) : (setDone s).dims = s.dims := rfl
@[simp] theorem setDone_dimsBefore (s : State) : (setDone s).dimsBefore = s.dimsBefore := rfl
@[simp] theorem setDone_lut (s : State) : (setDone s).lut = s.lut := rfl
@[simp] theorem setDone_bufs (s : State) : (setDone s).bufs = s.bufs := rfl
@[simp] theorem setDone_rngState (s : State) : (setDone s).rngState = s.rngState := rfl
@[simp] theorem setDone_diff (s : State) : (setDone s).diff = s.diff := rfl
@[simp] theorem setDone_phase (s : State) : (setDone s).phase = s.phase := rfl
@[simp] theorem setDone_pendCmd (s : State) : (setDone s).pendCmd = s.pendCmd := rfl
@[simp] theorem setDone_mem (s : State) : (setDone s).mem = s.mem := rfl
@[simp] theorem setDone_plat (s : State) : (setDone s).plat = s.plat := rfl
@[simp] theorem setDone_inReset (s : State) : (setDone s).inReset = s.inReset := rfl
@[simp] theorem setDone_script (s : State) : (setDone s).script = s.script := rfl
@[simp] theorem setDone_portLog (s : State) : (setDone s).portLog = s.portLog := rfl
@[simp] theorem setDone_race (s : State) : (setDone s).race = s.race := rfl
@[simp] theorem setDone_free (s : State) : (setDone s).free = s.free := rfl

/-! ### setErrCode -/

@[simp] theorem setErrCode_cfg (k : ErrKind) (s : State) : (setErrCode k s).cfg = s.cfg := rfl
@[simp] theorem setErrCode_snap (k : ErrKind) (s : State) : (setErrCode k s).snap = s.snap := rfl
@[simp] theorem setErrCode_status (k : ErrKind) (s : State) : (setErrCode k s).status = s.status := rfl
@[simp] theorem setErrCode_irqEn (k : ErrKind) (s : State) : (setErrCode k s).irqEn = s.irqEn := rfl
@[simp] theorem setErrCode_report (k : ErrKind) (s : State) :
    (setErrCode k s).report = { s.report with code := errCode k, op := cmdOp (runWord s) } := rfl
@[simp] theorem setErrCode_valid (k : ErrKind) (s : State) : (setErrCode k s).valid = s.valid := rfl
@[simp] theorem setErrCode_dims (k : ErrKind) (s : State) : (setErrCode k s).dims = s.dims := rfl
@[simp] theorem setErrCode_dimsBefore (k : ErrKind) (s : State) : (setErrCode k s).dimsBefore = s.dimsBefore := rfl
@[simp] theorem setErrCode_lut (k : ErrKind) (s : State) : (setErrCode k s).lut = s.lut := rfl
@[simp] theorem setErrCode_bufs (k : ErrKind) (s : State) : (setErrCode k s).bufs = s.bufs := rfl
@[simp] theorem setErrCode_rngState (k : ErrKind) (s : State) : (setErrCode k s).rngState = s.rngState := rfl
@[simp] theorem setErrCode_diff (k : ErrKind) (s : State) : (setErrCode k s).diff = s.diff := rfl
@[simp] theorem setErrCode_phase (k : ErrKind) (s : State) : (setErrCode k s).phase = s.phase := rfl
@[simp] theorem setErrCode_pendCmd (k : ErrKind) (s : State) : (setErrCode k s).pendCmd = s.pendCmd := rfl
@[simp] theorem setErrCode_mem (k : ErrKind) (s : State) : (setErrCode k s).mem = s.mem := rfl
@[simp] theorem setErrCode_plat (k : ErrKind) (s : State) : (setErrCode k s).plat = s.plat := rfl
@[simp] theorem setErrCode_inReset (k : ErrKind) (s : State) : (setErrCode k s).inReset = s.inReset := rfl
@[simp] theorem setErrCode_script (k : ErrKind) (s : State) : (setErrCode k s).script = s.script := rfl
@[simp] theorem setErrCode_portLog (k : ErrKind) (s : State) : (setErrCode k s).portLog = s.portLog := rfl
@[simp] theorem setErrCode_race (k : ErrKind) (s : State) : (setErrCode k s).race = s.race := rfl
@[simp] theorem setErrCode_free (k : ErrKind) (s : State) : (setErrCode k s).free = s.free := rfl

/-! ### setErrAddr -/

@[simp] theorem setErrAddr_cfg (a : Word) (s : State) : (setErrAddr a s).cfg = s.cfg := rfl
@[simp] theorem setErrAddr_snap (a : Word) (s : State) : (setErrAddr a s).snap = s.snap := rfl
@[simp] theorem setErrAddr_status (a : Word) (s : State) : (setErrAddr a s).status = s.status := rfl
@[simp] theorem setErrAddr_irqEn (a : Word) (s : State) : (setErrAddr a s).irqEn = s.irqEn := rfl
@[simp] theorem setErrAddr_report (a : Word) (s : State) :
    (setErrAddr a s).report = { s.report with addr := a } := rfl
@[simp] theorem setErrAddr_valid (a : Word) (s : State) : (setErrAddr a s).valid = s.valid := rfl
@[simp] theorem setErrAddr_dims (a : Word) (s : State) : (setErrAddr a s).dims = s.dims := rfl
@[simp] theorem setErrAddr_dimsBefore (a : Word) (s : State) : (setErrAddr a s).dimsBefore = s.dimsBefore := rfl
@[simp] theorem setErrAddr_lut (a : Word) (s : State) : (setErrAddr a s).lut = s.lut := rfl
@[simp] theorem setErrAddr_bufs (a : Word) (s : State) : (setErrAddr a s).bufs = s.bufs := rfl
@[simp] theorem setErrAddr_rngState (a : Word) (s : State) : (setErrAddr a s).rngState = s.rngState := rfl
@[simp] theorem setErrAddr_diff (a : Word) (s : State) : (setErrAddr a s).diff = s.diff := rfl
@[simp] theorem setErrAddr_phase (a : Word) (s : State) : (setErrAddr a s).phase = s.phase := rfl
@[simp] theorem setErrAddr_pendCmd (a : Word) (s : State) : (setErrAddr a s).pendCmd = s.pendCmd := rfl
@[simp] theorem setErrAddr_mem (a : Word) (s : State) : (setErrAddr a s).mem = s.mem := rfl
@[simp] theorem setErrAddr_plat (a : Word) (s : State) : (setErrAddr a s).plat = s.plat := rfl
@[simp] theorem setErrAddr_inReset (a : Word) (s : State) : (setErrAddr a s).inReset = s.inReset := rfl
@[simp] theorem setErrAddr_script (a : Word) (s : State) : (setErrAddr a s).script = s.script := rfl
@[simp] theorem setErrAddr_portLog (a : Word) (s : State) : (setErrAddr a s).portLog = s.portLog := rfl
@[simp] theorem setErrAddr_race (a : Word) (s : State) : (setErrAddr a s).race = s.race := rfl
@[simp] theorem setErrAddr_free (a : Word) (s : State) : (setErrAddr a s).free = s.free := rfl

/-! ### setErr -/

@[simp] theorem setErr_cfg (s : State) : (setErr s).cfg = s.cfg := rfl
@[simp] theorem setErr_snap (s : State) : (setErr s).snap = s.snap := rfl
@[simp] theorem setErr_status (s : State) : (setErr s).status = { s.status with err := true } := rfl
@[simp] theorem setErr_irqEn (s : State) : (setErr s).irqEn = s.irqEn := rfl
@[simp] theorem setErr_report (s : State) : (setErr s).report = s.report := rfl
@[simp] theorem setErr_valid (s : State) : (setErr s).valid = s.valid := rfl
@[simp] theorem setErr_dims (s : State) : (setErr s).dims = s.dims := rfl
@[simp] theorem setErr_dimsBefore (s : State) : (setErr s).dimsBefore = s.dimsBefore := rfl
@[simp] theorem setErr_lut (s : State) : (setErr s).lut = s.lut := rfl
@[simp] theorem setErr_bufs (s : State) : (setErr s).bufs = s.bufs := rfl
@[simp] theorem setErr_rngState (s : State) : (setErr s).rngState = s.rngState := rfl
@[simp] theorem setErr_diff (s : State) : (setErr s).diff = s.diff := rfl
@[simp] theorem setErr_phase (s : State) : (setErr s).phase = s.phase := rfl
@[simp] theorem setErr_pendCmd (s : State) : (setErr s).pendCmd = s.pendCmd := rfl
@[simp] theorem setErr_mem (s : State) : (setErr s).mem = s.mem := rfl
@[simp] theorem setErr_plat (s : State) : (setErr s).plat = s.plat := rfl
@[simp] theorem setErr_inReset (s : State) : (setErr s).inReset = s.inReset := rfl
@[simp] theorem setErr_script (s : State) : (setErr s).script = s.script := rfl
@[simp] theorem setErr_portLog (s : State) : (setErr s).portLog = s.portLog := rfl
@[simp] theorem setErr_race (s : State) : (setErr s).race = s.race := rfl
@[simp] theorem setErr_free (s : State) : (setErr s).free = s.free := rfl

/-! ### invalidate -/

@[simp] theorem invalidate_cfg (s : State) : (invalidate s).cfg = s.cfg := rfl
@[simp] theorem invalidate_snap (s : State) : (invalidate s).snap = s.snap := rfl
@[simp] theorem invalidate_status (s : State) : (invalidate s).status = s.status := rfl
@[simp] theorem invalidate_irqEn (s : State) : (invalidate s).irqEn = s.irqEn := rfl
@[simp] theorem invalidate_report (s : State) : (invalidate s).report = s.report := rfl
@[simp] theorem invalidate_valid (s : State) : (invalidate s).valid = Valid.none := rfl
@[simp] theorem invalidate_dims (s : State) : (invalidate s).dims = s.dims := rfl
@[simp] theorem invalidate_dimsBefore (s : State) : (invalidate s).dimsBefore = s.dimsBefore := rfl
@[simp] theorem invalidate_lut (s : State) : (invalidate s).lut = s.lut := rfl
@[simp] theorem invalidate_bufs (s : State) : (invalidate s).bufs = s.bufs := rfl
@[simp] theorem invalidate_rngState (s : State) : (invalidate s).rngState = s.rngState := rfl
@[simp] theorem invalidate_diff (s : State) : (invalidate s).diff = s.diff := rfl
@[simp] theorem invalidate_phase (s : State) : (invalidate s).phase = s.phase := rfl
@[simp] theorem invalidate_pendCmd (s : State) : (invalidate s).pendCmd = s.pendCmd := rfl
@[simp] theorem invalidate_mem (s : State) : (invalidate s).mem = s.mem := rfl
@[simp] theorem invalidate_plat (s : State) : (invalidate s).plat = s.plat := rfl
@[simp] theorem invalidate_inReset (s : State) : (invalidate s).inReset = s.inReset := rfl
@[simp] theorem invalidate_script (s : State) : (invalidate s).script = s.script := rfl
@[simp] theorem invalidate_portLog (s : State) : (invalidate s).portLog = s.portLog := rfl
@[simp] theorem invalidate_race (s : State) : (invalidate s).race = s.race := rfl
@[simp] theorem invalidate_free (s : State) : (invalidate s).free = s.free := rfl

/-! ### setPreempt -/

@[simp] theorem setPreempt_cfg (s : State) : (setPreempt s).cfg = s.cfg := rfl
@[simp] theorem setPreempt_snap (s : State) : (setPreempt s).snap = s.snap := rfl
@[simp] theorem setPreempt_status (s : State) : (setPreempt s).status = { s.status with preempt := true } := rfl
@[simp] theorem setPreempt_irqEn (s : State) : (setPreempt s).irqEn = s.irqEn := rfl
@[simp] theorem setPreempt_report (s : State) : (setPreempt s).report = s.report := rfl
@[simp] theorem setPreempt_valid (s : State) : (setPreempt s).valid = s.valid := rfl
@[simp] theorem setPreempt_dims (s : State) : (setPreempt s).dims = s.dims := rfl
@[simp] theorem setPreempt_dimsBefore (s : State) : (setPreempt s).dimsBefore = s.dimsBefore := rfl
@[simp] theorem setPreempt_lut (s : State) : (setPreempt s).lut = s.lut := rfl
@[simp] theorem setPreempt_bufs (s : State) : (setPreempt s).bufs = s.bufs := rfl
@[simp] theorem setPreempt_rngState (s : State) : (setPreempt s).rngState = s.rngState := rfl
@[simp] theorem setPreempt_diff (s : State) : (setPreempt s).diff = s.diff := rfl
@[simp] theorem setPreempt_phase (s : State) : (setPreempt s).phase = s.phase := rfl
@[simp] theorem setPreempt_pendCmd (s : State) : (setPreempt s).pendCmd = s.pendCmd := rfl
@[simp] theorem setPreempt_mem (s : State) : (setPreempt s).mem = s.mem := rfl
@[simp] theorem setPreempt_plat (s : State) : (setPreempt s).plat = s.plat := rfl
@[simp] theorem setPreempt_inReset (s : State) : (setPreempt s).inReset = s.inReset := rfl
@[simp] theorem setPreempt_script (s : State) : (setPreempt s).script = s.script := rfl
@[simp] theorem setPreempt_portLog (s : State) : (setPreempt s).portLog = s.portLog := rfl
@[simp] theorem setPreempt_race (s : State) : (setPreempt s).race = s.race := rfl
@[simp] theorem setPreempt_free (s : State) : (setPreempt s).free = s.free := rfl

/-! ### atRow -/

@[simp] theorem atRow_cfg (stage : Stage) (row : Nat) (s : State) : (atRow stage row s).cfg = s.cfg := rfl
@[simp] theorem atRow_snap (stage : Stage) (row : Nat) (s : State) : (atRow stage row s).snap = s.snap := rfl
@[simp] theorem atRow_status (stage : Stage) (row : Nat) (s : State) : (atRow stage row s).status = s.status := rfl
@[simp] theorem atRow_irqEn (stage : Stage) (row : Nat) (s : State) : (atRow stage row s).irqEn = s.irqEn := rfl
@[simp] theorem atRow_report (stage : Stage) (row : Nat) (s : State) : (atRow stage row s).report = s.report := rfl
@[simp] theorem atRow_valid (stage : Stage) (row : Nat) (s : State) : (atRow stage row s).valid = s.valid := rfl
@[simp] theorem atRow_dims (stage : Stage) (row : Nat) (s : State) : (atRow stage row s).dims = s.dims := rfl
@[simp] theorem atRow_dimsBefore (stage : Stage) (row : Nat) (s : State) :
    (atRow stage row s).dimsBefore = s.dimsBefore := rfl
@[simp] theorem atRow_lut (stage : Stage) (row : Nat) (s : State) : (atRow stage row s).lut = s.lut := rfl
@[simp] theorem atRow_bufs (stage : Stage) (row : Nat) (s : State) : (atRow stage row s).bufs = s.bufs := rfl
@[simp] theorem atRow_rngState (stage : Stage) (row : Nat) (s : State) :
    (atRow stage row s).rngState = s.rngState := rfl
@[simp] theorem atRow_diff (stage : Stage) (row : Nat) (s : State) : (atRow stage row s).diff = s.diff := rfl
@[simp] theorem atRow_pendCmd (stage : Stage) (row : Nat) (s : State) : (atRow stage row s).pendCmd = s.pendCmd := rfl
@[simp] theorem atRow_mem (stage : Stage) (row : Nat) (s : State) : (atRow stage row s).mem = s.mem := rfl
@[simp] theorem atRow_plat (stage : Stage) (row : Nat) (s : State) : (atRow stage row s).plat = s.plat := rfl
@[simp] theorem atRow_inReset (stage : Stage) (row : Nat) (s : State) : (atRow stage row s).inReset = s.inReset := rfl
@[simp] theorem atRow_script (stage : Stage) (row : Nat) (s : State) : (atRow stage row s).script = s.script := rfl
@[simp] theorem atRow_portLog (stage : Stage) (row : Nat) (s : State) : (atRow stage row s).portLog = s.portLog := rfl
@[simp] theorem atRow_race (stage : Stage) (row : Nat) (s : State) : (atRow stage row s).race = s.race := rfl
@[simp] theorem atRow_free (stage : Stage) (row : Nat) (s : State) : (atRow stage row s).free = s.free := rfl

/-! ### answer -/

@[simp] theorem answer_cfg (p : PortResp) (s : State) : (answer p s).cfg = s.cfg := rfl
@[simp] theorem answer_snap (p : PortResp) (s : State) : (answer p s).snap = s.snap := rfl
@[simp] theorem answer_status (p : PortResp) (s : State) : (answer p s).status = s.status := rfl
@[simp] theorem answer_irqEn (p : PortResp) (s : State) : (answer p s).irqEn = s.irqEn := rfl
@[simp] theorem answer_report (p : PortResp) (s : State) : (answer p s).report = s.report := rfl
@[simp] theorem answer_valid (p : PortResp) (s : State) : (answer p s).valid = s.valid := rfl
@[simp] theorem answer_dims (p : PortResp) (s : State) : (answer p s).dims = s.dims := rfl
@[simp] theorem answer_dimsBefore (p : PortResp) (s : State) : (answer p s).dimsBefore = s.dimsBefore := rfl
@[simp] theorem answer_lut (p : PortResp) (s : State) : (answer p s).lut = s.lut := rfl
@[simp] theorem answer_bufs (p : PortResp) (s : State) : (answer p s).bufs = s.bufs := rfl
@[simp] theorem answer_rngState (p : PortResp) (s : State) : (answer p s).rngState = s.rngState := rfl
@[simp] theorem answer_diff (p : PortResp) (s : State) : (answer p s).diff = s.diff := rfl
@[simp] theorem answer_phase (p : PortResp) (s : State) : (answer p s).phase = s.phase := rfl
@[simp] theorem answer_pendCmd (p : PortResp) (s : State) : (answer p s).pendCmd = s.pendCmd := rfl
@[simp] theorem answer_mem (p : PortResp) (s : State) : (answer p s).mem = s.mem := rfl
@[simp] theorem answer_plat (p : PortResp) (s : State) : (answer p s).plat = s.plat := rfl
@[simp] theorem answer_inReset (p : PortResp) (s : State) : (answer p s).inReset = s.inReset := rfl
@[simp] theorem answer_script (p : PortResp) (s : State) : (answer p s).script = s.script := rfl
@[simp] theorem answer_portLog (p : PortResp) (s : State) : (answer p s).portLog = p :: s.portLog := rfl
@[simp] theorem answer_race (p : PortResp) (s : State) : (answer p s).race = s.race := rfl
@[simp] theorem answer_free (p : PortResp) (s : State) : (answer p s).free = s.free := rfl

/-! ### latchDims -/

@[simp] theorem latchDims_cfg (work : Word) (s : State) : (latchDims work s).cfg = s.cfg := rfl
@[simp] theorem latchDims_snap (work : Word) (s : State) : (latchDims work s).snap = s.snap := rfl
@[simp] theorem latchDims_status (work : Word) (s : State) : (latchDims work s).status = s.status := rfl
@[simp] theorem latchDims_irqEn (work : Word) (s : State) : (latchDims work s).irqEn = s.irqEn := rfl
@[simp] theorem latchDims_report (work : Word) (s : State) : (latchDims work s).report = s.report := rfl
@[simp] theorem latchDims_valid (work : Word) (s : State) : (latchDims work s).valid = s.valid := rfl
@[simp] theorem latchDims_dims (work : Word) (s : State) :
    (latchDims work s).dims = ⟨work, s.snap.srcDim, s.snap.scale⟩ := rfl
@[simp] theorem latchDims_dimsBefore (work : Word) (s : State) : (latchDims work s).dimsBefore = s.dimsBefore := rfl
@[simp] theorem latchDims_lut (work : Word) (s : State) : (latchDims work s).lut = s.lut := rfl
@[simp] theorem latchDims_bufs (work : Word) (s : State) : (latchDims work s).bufs = s.bufs := rfl
@[simp] theorem latchDims_rngState (work : Word) (s : State) : (latchDims work s).rngState = s.rngState := rfl
@[simp] theorem latchDims_diff (work : Word) (s : State) : (latchDims work s).diff = s.diff := rfl
@[simp] theorem latchDims_phase (work : Word) (s : State) : (latchDims work s).phase = s.phase := rfl
@[simp] theorem latchDims_pendCmd (work : Word) (s : State) : (latchDims work s).pendCmd = s.pendCmd := rfl
@[simp] theorem latchDims_mem (work : Word) (s : State) : (latchDims work s).mem = s.mem := rfl
@[simp] theorem latchDims_plat (work : Word) (s : State) : (latchDims work s).plat = s.plat := rfl
@[simp] theorem latchDims_inReset (work : Word) (s : State) : (latchDims work s).inReset = s.inReset := rfl
@[simp] theorem latchDims_script (work : Word) (s : State) : (latchDims work s).script = s.script := rfl
@[simp] theorem latchDims_portLog (work : Word) (s : State) : (latchDims work s).portLog = s.portLog := rfl
@[simp] theorem latchDims_race (work : Word) (s : State) : (latchDims work s).race = s.race := rfl
@[simp] theorem latchDims_free (work : Word) (s : State) : (latchDims work s).free = s.free := rfl

/-! ### clearForSample -/

@[simp] theorem clearForSample_cfg (s : State) : (clearForSample s).cfg = s.cfg := rfl
@[simp] theorem clearForSample_snap (s : State) : (clearForSample s).snap = s.snap := rfl
@[simp] theorem clearForSample_status (s : State) : (clearForSample s).status = s.status := rfl
@[simp] theorem clearForSample_irqEn (s : State) : (clearForSample s).irqEn = s.irqEn := rfl
@[simp] theorem clearForSample_report (s : State) : (clearForSample s).report = s.report := rfl
@[simp] theorem clearForSample_valid (s : State) : (clearForSample s).valid = Valid.none := rfl
@[simp] theorem clearForSample_dims (s : State) : (clearForSample s).dims = s.dims := rfl
@[simp] theorem clearForSample_dimsBefore (s : State) : (clearForSample s).dimsBefore = s.dimsBefore := rfl
@[simp] theorem clearForSample_lut (s : State) : (clearForSample s).lut = s.lut := rfl
@[simp] theorem clearForSample_bufs (s : State) : (clearForSample s).bufs = { s.bufs with ibuf := [] } := rfl
@[simp] theorem clearForSample_rngState (s : State) : (clearForSample s).rngState = s.rngState := rfl
@[simp] theorem clearForSample_diff (s : State) : (clearForSample s).diff = s.diff := rfl
@[simp] theorem clearForSample_phase (s : State) : (clearForSample s).phase = s.phase := rfl
@[simp] theorem clearForSample_pendCmd (s : State) : (clearForSample s).pendCmd = s.pendCmd := rfl
@[simp] theorem clearForSample_mem (s : State) : (clearForSample s).mem = s.mem := rfl
@[simp] theorem clearForSample_plat (s : State) : (clearForSample s).plat = s.plat := rfl
@[simp] theorem clearForSample_inReset (s : State) : (clearForSample s).inReset = s.inReset := rfl
@[simp] theorem clearForSample_script (s : State) : (clearForSample s).script = s.script := rfl
@[simp] theorem clearForSample_portLog (s : State) : (clearForSample s).portLog = s.portLog := rfl
@[simp] theorem clearForSample_race (s : State) : (clearForSample s).race = s.race := rfl
@[simp] theorem clearForSample_free (s : State) : (clearForSample s).free = s.free := rfl

/-! ### emptySample -/

@[simp] theorem emptySample_cfg (s : State) : (emptySample s).cfg = s.cfg := rfl
@[simp] theorem emptySample_snap (s : State) : (emptySample s).snap = s.snap := rfl
@[simp] theorem emptySample_status (s : State) : (emptySample s).status = s.status := rfl
@[simp] theorem emptySample_irqEn (s : State) : (emptySample s).irqEn = s.irqEn := rfl
@[simp] theorem emptySample_report (s : State) : (emptySample s).report = s.report := rfl
@[simp] theorem emptySample_valid (s : State) : (emptySample s).valid = { Valid.none with ibuf := true } := rfl
@[simp] theorem emptySample_dims (s : State) : (emptySample s).dims = s.dims := rfl
@[simp] theorem emptySample_dimsBefore (s : State) : (emptySample s).dimsBefore = s.dimsBefore := rfl
@[simp] theorem emptySample_lut (s : State) : (emptySample s).lut = s.lut := rfl
@[simp] theorem emptySample_bufs (s : State) : (emptySample s).bufs = { s.bufs with ibuf := [] } := rfl
@[simp] theorem emptySample_rngState (s : State) : (emptySample s).rngState = s.rngState := rfl
@[simp] theorem emptySample_diff (s : State) : (emptySample s).diff = s.diff := rfl
@[simp] theorem emptySample_phase (s : State) : (emptySample s).phase = s.phase := rfl
@[simp] theorem emptySample_pendCmd (s : State) : (emptySample s).pendCmd = s.pendCmd := rfl
@[simp] theorem emptySample_mem (s : State) : (emptySample s).mem = s.mem := rfl
@[simp] theorem emptySample_plat (s : State) : (emptySample s).plat = s.plat := rfl
@[simp] theorem emptySample_inReset (s : State) : (emptySample s).inReset = s.inReset := rfl
@[simp] theorem emptySample_script (s : State) : (emptySample s).script = s.script := rfl
@[simp] theorem emptySample_portLog (s : State) : (emptySample s).portLog = s.portLog := rfl
@[simp] theorem emptySample_race (s : State) : (emptySample s).race = s.race := rfl
@[simp] theorem emptySample_free (s : State) : (emptySample s).free = s.free := rfl

/-! ### buildLut -/

@[simp] theorem buildLut_cfg (s : State) : (buildLut s).cfg = s.cfg := by rw [buildLut]
@[simp] theorem buildLut_snap (s : State) : (buildLut s).snap = s.snap := by rw [buildLut]
@[simp] theorem buildLut_status (s : State) : (buildLut s).status = s.status := by rw [buildLut]
@[simp] theorem buildLut_irqEn (s : State) : (buildLut s).irqEn = s.irqEn := by rw [buildLut]
@[simp] theorem buildLut_report (s : State) : (buildLut s).report = s.report := by rw [buildLut]
@[simp] theorem buildLut_valid (s : State) : (buildLut s).valid = s.valid := by rw [buildLut]
@[simp] theorem buildLut_dims (s : State) : (buildLut s).dims = s.dims := by rw [buildLut]
@[simp] theorem buildLut_dimsBefore (s : State) : (buildLut s).dimsBefore = s.dimsBefore := by rw [buildLut]
@[simp] theorem buildLut_lut (s : State) :
    (buildLut s).lut = ⟨lutTable s.snap.tone, true, s.snap.tone⟩ := by rw [buildLut]
@[simp] theorem buildLut_bufs (s : State) : (buildLut s).bufs = s.bufs := by rw [buildLut]
@[simp] theorem buildLut_rngState (s : State) : (buildLut s).rngState = s.rngState := by rw [buildLut]
@[simp] theorem buildLut_diff (s : State) : (buildLut s).diff = s.diff := by rw [buildLut]
@[simp] theorem buildLut_phase (s : State) : (buildLut s).phase = s.phase := by rw [buildLut]
@[simp] theorem buildLut_pendCmd (s : State) : (buildLut s).pendCmd = s.pendCmd := by rw [buildLut]
@[simp] theorem buildLut_mem (s : State) : (buildLut s).mem = s.mem := by rw [buildLut]
@[simp] theorem buildLut_plat (s : State) : (buildLut s).plat = s.plat := by rw [buildLut]
@[simp] theorem buildLut_inReset (s : State) : (buildLut s).inReset = s.inReset := by rw [buildLut]
@[simp] theorem buildLut_script (s : State) : (buildLut s).script = s.script := by rw [buildLut]
@[simp] theorem buildLut_portLog (s : State) : (buildLut s).portLog = s.portLog := by rw [buildLut]
@[simp] theorem buildLut_race (s : State) : (buildLut s).race = s.race := by rw [buildLut]
@[simp] theorem buildLut_free (s : State) : (buildLut s).free = s.free := by rw [buildLut]

/-! ### startTonemap -/

@[simp] theorem startTonemap_cfg (s : State) : (startTonemap s).cfg = s.cfg := rfl
@[simp] theorem startTonemap_snap (s : State) : (startTonemap s).snap = s.snap := rfl
@[simp] theorem startTonemap_status (s : State) : (startTonemap s).status = s.status := rfl
@[simp] theorem startTonemap_irqEn (s : State) : (startTonemap s).irqEn = s.irqEn := rfl
@[simp] theorem startTonemap_report (s : State) : (startTonemap s).report = s.report := rfl
@[simp] theorem startTonemap_valid (s : State) :
    (startTonemap s).valid = { s.valid with tbuf := false, mbuf := false, dbuf := false, cbuf := false } := rfl
@[simp] theorem startTonemap_dims (s : State) : (startTonemap s).dims = s.dims := rfl
@[simp] theorem startTonemap_dimsBefore (s : State) : (startTonemap s).dimsBefore = s.dimsBefore := rfl
@[simp] theorem startTonemap_lut (s : State) : (startTonemap s).lut = s.lut := rfl
@[simp] theorem startTonemap_bufs (s : State) : (startTonemap s).bufs = { s.bufs with tbuf := [] } := rfl
@[simp] theorem startTonemap_rngState (s : State) : (startTonemap s).rngState = s.rngState := rfl
@[simp] theorem startTonemap_diff (s : State) : (startTonemap s).diff = s.diff := rfl
@[simp] theorem startTonemap_phase (s : State) : (startTonemap s).phase = s.phase := rfl
@[simp] theorem startTonemap_pendCmd (s : State) : (startTonemap s).pendCmd = s.pendCmd := rfl
@[simp] theorem startTonemap_mem (s : State) : (startTonemap s).mem = s.mem := rfl
@[simp] theorem startTonemap_plat (s : State) : (startTonemap s).plat = s.plat := rfl
@[simp] theorem startTonemap_inReset (s : State) : (startTonemap s).inReset = s.inReset := rfl
@[simp] theorem startTonemap_script (s : State) : (startTonemap s).script = s.script := rfl
@[simp] theorem startTonemap_portLog (s : State) : (startTonemap s).portLog = s.portLog := rfl
@[simp] theorem startTonemap_race (s : State) : (startTonemap s).race = s.race := rfl
@[simp] theorem startTonemap_free (s : State) : (startTonemap s).free = s.free := rfl

/-! ### tonemapRow -/

@[simp] theorem tonemapRow_cfg (y : Nat) (s : State) : (tonemapRow y s).cfg = s.cfg := rfl
@[simp] theorem tonemapRow_snap (y : Nat) (s : State) : (tonemapRow y s).snap = s.snap := rfl
@[simp] theorem tonemapRow_status (y : Nat) (s : State) : (tonemapRow y s).status = s.status := rfl
@[simp] theorem tonemapRow_irqEn (y : Nat) (s : State) : (tonemapRow y s).irqEn = s.irqEn := rfl
@[simp] theorem tonemapRow_report (y : Nat) (s : State) : (tonemapRow y s).report = s.report := rfl
@[simp] theorem tonemapRow_valid (y : Nat) (s : State) : (tonemapRow y s).valid = s.valid := rfl
@[simp] theorem tonemapRow_dims (y : Nat) (s : State) : (tonemapRow y s).dims = s.dims := rfl
@[simp] theorem tonemapRow_dimsBefore (y : Nat) (s : State) : (tonemapRow y s).dimsBefore = s.dimsBefore := rfl
@[simp] theorem tonemapRow_lut (y : Nat) (s : State) : (tonemapRow y s).lut = s.lut := rfl
@[simp] theorem tonemapRow_rngState (y : Nat) (s : State) : (tonemapRow y s).rngState = s.rngState := rfl
@[simp] theorem tonemapRow_diff (y : Nat) (s : State) : (tonemapRow y s).diff = s.diff := rfl
@[simp] theorem tonemapRow_phase (y : Nat) (s : State) : (tonemapRow y s).phase = s.phase := rfl
@[simp] theorem tonemapRow_pendCmd (y : Nat) (s : State) : (tonemapRow y s).pendCmd = s.pendCmd := rfl
@[simp] theorem tonemapRow_mem (y : Nat) (s : State) : (tonemapRow y s).mem = s.mem := rfl
@[simp] theorem tonemapRow_plat (y : Nat) (s : State) : (tonemapRow y s).plat = s.plat := rfl
@[simp] theorem tonemapRow_inReset (y : Nat) (s : State) : (tonemapRow y s).inReset = s.inReset := rfl
@[simp] theorem tonemapRow_script (y : Nat) (s : State) : (tonemapRow y s).script = s.script := rfl
@[simp] theorem tonemapRow_portLog (y : Nat) (s : State) : (tonemapRow y s).portLog = s.portLog := rfl
@[simp] theorem tonemapRow_race (y : Nat) (s : State) : (tonemapRow y s).race = s.race := rfl
@[simp] theorem tonemapRow_free (y : Nat) (s : State) : (tonemapRow y s).free = s.free := rfl

/-! ### startDither -/

@[simp] theorem startDither_cfg (s : State) : (startDither s).cfg = s.cfg := rfl
@[simp] theorem startDither_snap (s : State) : (startDither s).snap = s.snap := rfl
@[simp] theorem startDither_irqEn (s : State) : (startDither s).irqEn = s.irqEn := rfl
@[simp] theorem startDither_report (s : State) : (startDither s).report = s.report := rfl
@[simp] theorem startDither_valid (s : State) :
    (startDither s).valid = { s.valid with mbuf := false, dbuf := false, cbuf := false } := rfl
@[simp] theorem startDither_dims (s : State) : (startDither s).dims = s.dims := rfl
@[simp] theorem startDither_dimsBefore (s : State) : (startDither s).dimsBefore = s.dimsBefore := rfl
@[simp] theorem startDither_lut (s : State) : (startDither s).lut = s.lut := rfl
@[simp] theorem startDither_bufs (s : State) : (startDither s).bufs = s.bufs := rfl
@[simp] theorem startDither_rngState (s : State) :
    (startDither s).rngState = (if s.snap.rngFree then s.rngState else s.snap.rngSeed) := rfl
@[simp] theorem startDither_diff (s : State) : (startDither s).diff = s.diff := rfl
@[simp] theorem startDither_phase (s : State) : (startDither s).phase = s.phase := rfl
@[simp] theorem startDither_pendCmd (s : State) : (startDither s).pendCmd = s.pendCmd := rfl
@[simp] theorem startDither_mem (s : State) : (startDither s).mem = s.mem := rfl
@[simp] theorem startDither_plat (s : State) : (startDither s).plat = s.plat := rfl
@[simp] theorem startDither_inReset (s : State) : (startDither s).inReset = s.inReset := rfl
@[simp] theorem startDither_script (s : State) : (startDither s).script = s.script := rfl
@[simp] theorem startDither_portLog (s : State) : (startDither s).portLog = s.portLog := rfl
@[simp] theorem startDither_race (s : State) : (startDither s).race = s.race := rfl
@[simp] theorem startDither_free (s : State) : (startDither s).free = s.free := rfl

/-! ### mbufDone -/

@[simp] theorem mbufDone_cfg (s : State) : (mbufDone s).cfg = s.cfg := rfl
@[simp] theorem mbufDone_snap (s : State) : (mbufDone s).snap = s.snap := rfl
@[simp] theorem mbufDone_status (s : State) : (mbufDone s).status = s.status := rfl
@[simp] theorem mbufDone_irqEn (s : State) : (mbufDone s).irqEn = s.irqEn := rfl
@[simp] theorem mbufDone_report (s : State) : (mbufDone s).report = s.report := rfl
@[simp] theorem mbufDone_valid (s : State) : (mbufDone s).valid = { s.valid with mbuf := true } := rfl
@[simp] theorem mbufDone_dims (s : State) : (mbufDone s).dims = s.dims := rfl
@[simp] theorem mbufDone_dimsBefore (s : State) : (mbufDone s).dimsBefore = s.dimsBefore := rfl
@[simp] theorem mbufDone_lut (s : State) : (mbufDone s).lut = s.lut := rfl
@[simp] theorem mbufDone_bufs (s : State) : (mbufDone s).bufs = s.bufs := rfl
@[simp] theorem mbufDone_rngState (s : State) : (mbufDone s).rngState = s.rngState := rfl
@[simp] theorem mbufDone_diff (s : State) : (mbufDone s).diff = ⟨[], none⟩ := rfl
@[simp] theorem mbufDone_phase (s : State) : (mbufDone s).phase = s.phase := rfl
@[simp] theorem mbufDone_pendCmd (s : State) : (mbufDone s).pendCmd = s.pendCmd := rfl
@[simp] theorem mbufDone_mem (s : State) : (mbufDone s).mem = s.mem := rfl
@[simp] theorem mbufDone_plat (s : State) : (mbufDone s).plat = s.plat := rfl
@[simp] theorem mbufDone_inReset (s : State) : (mbufDone s).inReset = s.inReset := rfl
@[simp] theorem mbufDone_script (s : State) : (mbufDone s).script = s.script := rfl
@[simp] theorem mbufDone_portLog (s : State) : (mbufDone s).portLog = s.portLog := rfl
@[simp] theorem mbufDone_race (s : State) : (mbufDone s).race = s.race := rfl
@[simp] theorem mbufDone_free (s : State) : (mbufDone s).free = s.free := rfl

/-! ### initAcc -/

@[simp] theorem initAcc_cfg (s : State) : (initAcc s).cfg = s.cfg := rfl
@[simp] theorem initAcc_snap (s : State) : (initAcc s).snap = s.snap := rfl
@[simp] theorem initAcc_status (s : State) : (initAcc s).status = s.status := rfl
@[simp] theorem initAcc_irqEn (s : State) : (initAcc s).irqEn = s.irqEn := rfl
@[simp] theorem initAcc_report (s : State) : (initAcc s).report = s.report := rfl
@[simp] theorem initAcc_valid (s : State) : (initAcc s).valid = s.valid := rfl
@[simp] theorem initAcc_dims (s : State) : (initAcc s).dims = s.dims := rfl
@[simp] theorem initAcc_dimsBefore (s : State) : (initAcc s).dimsBefore = s.dimsBefore := rfl
@[simp] theorem initAcc_lut (s : State) : (initAcc s).lut = s.lut := rfl
@[simp] theorem initAcc_bufs (s : State) : (initAcc s).bufs = s.bufs := rfl
@[simp] theorem initAcc_rngState (s : State) : (initAcc s).rngState = s.rngState := rfl
@[simp] theorem initAcc_phase (s : State) : (initAcc s).phase = s.phase := rfl
@[simp] theorem initAcc_pendCmd (s : State) : (initAcc s).pendCmd = s.pendCmd := rfl
@[simp] theorem initAcc_mem (s : State) : (initAcc s).mem = s.mem := rfl
@[simp] theorem initAcc_plat (s : State) : (initAcc s).plat = s.plat := rfl
@[simp] theorem initAcc_inReset (s : State) : (initAcc s).inReset = s.inReset := rfl
@[simp] theorem initAcc_script (s : State) : (initAcc s).script = s.script := rfl
@[simp] theorem initAcc_portLog (s : State) : (initAcc s).portLog = s.portLog := rfl
@[simp] theorem initAcc_race (s : State) : (initAcc s).race = s.race := rfl
@[simp] theorem initAcc_free (s : State) : (initAcc s).free = s.free := rfl

/-! ### startDepth -/

@[simp] theorem startDepth_cfg (s : State) : (startDepth s).cfg = s.cfg := rfl
@[simp] theorem startDepth_snap (s : State) : (startDepth s).snap = s.snap := rfl
@[simp] theorem startDepth_status (s : State) : (startDepth s).status = s.status := rfl
@[simp] theorem startDepth_irqEn (s : State) : (startDepth s).irqEn = s.irqEn := rfl
@[simp] theorem startDepth_report (s : State) : (startDepth s).report = s.report := rfl
@[simp] theorem startDepth_valid (s : State) :
    (startDepth s).valid = { s.valid with dbuf := false, cbuf := false } := rfl
@[simp] theorem startDepth_dims (s : State) : (startDepth s).dims = s.dims := rfl
@[simp] theorem startDepth_dimsBefore (s : State) : (startDepth s).dimsBefore = s.dimsBefore := rfl
@[simp] theorem startDepth_lut (s : State) : (startDepth s).lut = s.lut := rfl
@[simp] theorem startDepth_bufs (s : State) : (startDepth s).bufs = { s.bufs with dbuf := [] } := rfl
@[simp] theorem startDepth_rngState (s : State) : (startDepth s).rngState = s.rngState := rfl
@[simp] theorem startDepth_diff (s : State) : (startDepth s).diff = s.diff := rfl
@[simp] theorem startDepth_phase (s : State) : (startDepth s).phase = s.phase := rfl
@[simp] theorem startDepth_pendCmd (s : State) : (startDepth s).pendCmd = s.pendCmd := rfl
@[simp] theorem startDepth_mem (s : State) : (startDepth s).mem = s.mem := rfl
@[simp] theorem startDepth_plat (s : State) : (startDepth s).plat = s.plat := rfl
@[simp] theorem startDepth_inReset (s : State) : (startDepth s).inReset = s.inReset := rfl
@[simp] theorem startDepth_script (s : State) : (startDepth s).script = s.script := rfl
@[simp] theorem startDepth_portLog (s : State) : (startDepth s).portLog = s.portLog := rfl
@[simp] theorem startDepth_race (s : State) : (startDepth s).race = s.race := rfl
@[simp] theorem startDepth_free (s : State) : (startDepth s).free = s.free := rfl

/-! ### depthRow -/

@[simp] theorem depthRow_cfg (y : Nat) (s : State) : (depthRow y s).cfg = s.cfg := rfl
@[simp] theorem depthRow_snap (y : Nat) (s : State) : (depthRow y s).snap = s.snap := rfl
@[simp] theorem depthRow_status (y : Nat) (s : State) : (depthRow y s).status = s.status := rfl
@[simp] theorem depthRow_irqEn (y : Nat) (s : State) : (depthRow y s).irqEn = s.irqEn := rfl
@[simp] theorem depthRow_report (y : Nat) (s : State) : (depthRow y s).report = s.report := rfl
@[simp] theorem depthRow_valid (y : Nat) (s : State) : (depthRow y s).valid = s.valid := rfl
@[simp] theorem depthRow_dims (y : Nat) (s : State) : (depthRow y s).dims = s.dims := rfl
@[simp] theorem depthRow_dimsBefore (y : Nat) (s : State) : (depthRow y s).dimsBefore = s.dimsBefore := rfl
@[simp] theorem depthRow_lut (y : Nat) (s : State) : (depthRow y s).lut = s.lut := rfl
@[simp] theorem depthRow_rngState (y : Nat) (s : State) : (depthRow y s).rngState = s.rngState := rfl
@[simp] theorem depthRow_diff (y : Nat) (s : State) : (depthRow y s).diff = s.diff := rfl
@[simp] theorem depthRow_phase (y : Nat) (s : State) : (depthRow y s).phase = s.phase := rfl
@[simp] theorem depthRow_pendCmd (y : Nat) (s : State) : (depthRow y s).pendCmd = s.pendCmd := rfl
@[simp] theorem depthRow_mem (y : Nat) (s : State) : (depthRow y s).mem = s.mem := rfl
@[simp] theorem depthRow_plat (y : Nat) (s : State) : (depthRow y s).plat = s.plat := rfl
@[simp] theorem depthRow_inReset (y : Nat) (s : State) : (depthRow y s).inReset = s.inReset := rfl
@[simp] theorem depthRow_script (y : Nat) (s : State) : (depthRow y s).script = s.script := rfl
@[simp] theorem depthRow_portLog (y : Nat) (s : State) : (depthRow y s).portLog = s.portLog := rfl
@[simp] theorem depthRow_race (y : Nat) (s : State) : (depthRow y s).race = s.race := rfl
@[simp] theorem depthRow_free (y : Nat) (s : State) : (depthRow y s).free = s.free := rfl

/-! ### startPalette -/

@[simp] theorem startPalette_cfg (s : State) : (startPalette s).cfg = s.cfg := rfl
@[simp] theorem startPalette_snap (s : State) : (startPalette s).snap = s.snap := rfl
@[simp] theorem startPalette_status (s : State) : (startPalette s).status = s.status := rfl
@[simp] theorem startPalette_irqEn (s : State) : (startPalette s).irqEn = s.irqEn := rfl
@[simp] theorem startPalette_report (s : State) : (startPalette s).report = s.report := rfl
@[simp] theorem startPalette_valid (s : State) : (startPalette s).valid = { s.valid with cbuf := false } := rfl
@[simp] theorem startPalette_dims (s : State) : (startPalette s).dims = s.dims := rfl
@[simp] theorem startPalette_dimsBefore (s : State) : (startPalette s).dimsBefore = s.dimsBefore := rfl
@[simp] theorem startPalette_lut (s : State) : (startPalette s).lut = s.lut := rfl
@[simp] theorem startPalette_bufs (s : State) : (startPalette s).bufs = { s.bufs with cbuf := [] } := rfl
@[simp] theorem startPalette_rngState (s : State) : (startPalette s).rngState = s.rngState := rfl
@[simp] theorem startPalette_diff (s : State) : (startPalette s).diff = s.diff := rfl
@[simp] theorem startPalette_phase (s : State) : (startPalette s).phase = s.phase := rfl
@[simp] theorem startPalette_pendCmd (s : State) : (startPalette s).pendCmd = s.pendCmd := rfl
@[simp] theorem startPalette_mem (s : State) : (startPalette s).mem = s.mem := rfl
@[simp] theorem startPalette_plat (s : State) : (startPalette s).plat = s.plat := rfl
@[simp] theorem startPalette_inReset (s : State) : (startPalette s).inReset = s.inReset := rfl
@[simp] theorem startPalette_script (s : State) : (startPalette s).script = s.script := rfl
@[simp] theorem startPalette_portLog (s : State) : (startPalette s).portLog = s.portLog := rfl
@[simp] theorem startPalette_race (s : State) : (startPalette s).race = s.race := rfl
@[simp] theorem startPalette_free (s : State) : (startPalette s).free = s.free := rfl

/-! ### paletteRow -/

@[simp] theorem paletteRow_cfg (y : Nat) (s : State) : (paletteRow y s).cfg = s.cfg := rfl
@[simp] theorem paletteRow_snap (y : Nat) (s : State) : (paletteRow y s).snap = s.snap := rfl
@[simp] theorem paletteRow_status (y : Nat) (s : State) : (paletteRow y s).status = s.status := rfl
@[simp] theorem paletteRow_irqEn (y : Nat) (s : State) : (paletteRow y s).irqEn = s.irqEn := rfl
@[simp] theorem paletteRow_report (y : Nat) (s : State) : (paletteRow y s).report = s.report := rfl
@[simp] theorem paletteRow_valid (y : Nat) (s : State) : (paletteRow y s).valid = s.valid := rfl
@[simp] theorem paletteRow_dims (y : Nat) (s : State) : (paletteRow y s).dims = s.dims := rfl
@[simp] theorem paletteRow_dimsBefore (y : Nat) (s : State) : (paletteRow y s).dimsBefore = s.dimsBefore := rfl
@[simp] theorem paletteRow_lut (y : Nat) (s : State) : (paletteRow y s).lut = s.lut := rfl
@[simp] theorem paletteRow_rngState (y : Nat) (s : State) : (paletteRow y s).rngState = s.rngState := rfl
@[simp] theorem paletteRow_diff (y : Nat) (s : State) : (paletteRow y s).diff = s.diff := rfl
@[simp] theorem paletteRow_phase (y : Nat) (s : State) : (paletteRow y s).phase = s.phase := rfl
@[simp] theorem paletteRow_pendCmd (y : Nat) (s : State) : (paletteRow y s).pendCmd = s.pendCmd := rfl
@[simp] theorem paletteRow_mem (y : Nat) (s : State) : (paletteRow y s).mem = s.mem := rfl
@[simp] theorem paletteRow_plat (y : Nat) (s : State) : (paletteRow y s).plat = s.plat := rfl
@[simp] theorem paletteRow_inReset (y : Nat) (s : State) : (paletteRow y s).inReset = s.inReset := rfl
@[simp] theorem paletteRow_script (y : Nat) (s : State) : (paletteRow y s).script = s.script := rfl
@[simp] theorem paletteRow_portLog (y : Nat) (s : State) : (paletteRow y s).portLog = s.portLog := rfl
@[simp] theorem paletteRow_race (y : Nat) (s : State) : (paletteRow y s).race = s.race := rfl
@[simp] theorem paletteRow_free (y : Nat) (s : State) : (paletteRow y s).free = s.free := rfl

/-- The engine's place in the command's word does not change with the row it reaches. -/
@[simp] theorem runWord_atRow (stage : Stage) (row : Nat) (s : State) : runWord (atRow stage row s) = runWord s := by
  unfold runWord atRow
  cases s.phase <;> rfl

/-- Reaching a row of a command that runs. -/
theorem atRow_run (stage : Stage) (row : Nat) (s : State) (w : Word) (st : Stage) (r : Nat)
    (h : s.phase = .run w st r) : atRow stage row s = { s with phase := .run w stage row } := by
  unfold atRow
  rw [h]

/-- A running command stays a running command from row to row. -/
theorem busy_atRow (stage : Stage) (row : Nat) (s : State) : busy (atRow stage row s) = busy s := by
  unfold busy atRow
  cases s.phase <;> simp

end Sys2Proof.Machine
end

