-- ==== Sys2Proof/Laws/Memory.lean ====
section
/-! SUPPORT. Frame memory: a read after a write, and the canonical form that every memory operation keeps. -/

namespace Sys2Proof.Machine

@[simp] theorem read_nil (x : Nat) : Memory.read [] x = Memory.unlisted := rfl

theorem wfFrom_cons (lo a : Nat) (b : Byte) (m : Memory) :
    Memory.wfFrom lo ((a, b) :: m) = true ↔
      lo ≤ a ∧ a < 4294967296 ∧ b ≠ Memory.unlisted ∧ Memory.wfFrom (a + 1) m = true := by
  simp [Memory.wfFrom, and_assoc]

/-- A canonical memory above `lo` is one above any lower bound. -/
theorem wfFrom_mono (lo lo' : Nat) (m : Memory) (h : lo' ≤ lo) (hm : Memory.wfFrom lo m = true) :
    Memory.wfFrom lo' m = true := by
  cases m with
  | nil => rfl
  | cons c m =>
    obtain ⟨a, b⟩ := c
    rw [wfFrom_cons] at hm ⊢
    exact ⟨by omega, hm.2⟩

/-- Below its lowest listed address a canonical memory reads as unlisted. -/
theorem read_below (lo x : Nat) (m : Memory) (hm : Memory.wfFrom lo m = true) (hx : x < lo) :
    Memory.read m x = Memory.unlisted := by
  induction m generalizing lo with
  | nil => rfl
  | cons c m ih =>
    obtain ⟨a, b⟩ := c
    rw [wfFrom_cons] at hm
    have hne : x ≠ a := by omega
    simp only [Memory.read, hne, if_false]
    exact ih (a + 1) hm.2.2.2 (by omega)

theorem put_wfFrom (lo a : Nat) (b : Byte) (m : Memory) (hlo : lo ≤ a) (ha : a < 4294967296)
    (hm : Memory.wfFrom (a + 1) m = true) : Memory.wfFrom lo (Memory.put a b m) = true := by
  unfold Memory.put
  split
  · exact wfFrom_mono (a + 1) lo m (by omega) hm
  · rw [wfFrom_cons]
    exact ⟨hlo, ha, by assumption, hm⟩

theorem read_put (a x : Nat) (b : Byte) (m : Memory) (hm : Memory.wfFrom (a + 1) m = true) :
    Memory.read (Memory.put a b m) x = if x = a then b else Memory.read m x := by
  unfold Memory.put
  split
  · rename_i h
    split
    · subst_vars
      exact read_below (x + 1) x m hm (by omega)
    · rfl
  · rfl

theorem write_wfFrom (lo x : Nat) (v : Byte) (m : Memory) (hlo : lo ≤ x) (hx : x < 4294967296)
    (hm : Memory.wfFrom lo m = true) : Memory.wfFrom lo (Memory.write m x v) = true := by
  induction m generalizing lo with
  | nil => exact put_wfFrom lo x v [] hlo hx rfl
  | cons c m ih =>
    obtain ⟨a, b⟩ := c
    have h := (wfFrom_cons lo a b m).1 hm
    unfold Memory.write
    split
    · exact put_wfFrom lo x v _ hlo hx ((wfFrom_cons _ a b m).2 ⟨by omega, h.2⟩)
    · split
      · exact put_wfFrom lo a v m h.1 h.2.1 h.2.2.2
      · rw [wfFrom_cons]
        exact ⟨h.1, h.2.1, h.2.2.1, ih (a + 1) (by omega) h.2.2.2⟩

/-- A write keeps the canonical form. -/
theorem write_wf (m : Memory) (x : Nat) (v : Byte) (hm : m.wf = true) (hx : x < 4294967296) :
    (m.write x v).wf = true :=
  write_wfFrom 0 x v m (Nat.zero_le x) hx hm

theorem read_write_from (lo x y : Nat) (v : Byte) (m : Memory) (hm : Memory.wfFrom lo m = true) :
    Memory.read (Memory.write m x v) y = if y = x then v else Memory.read m y := by
  induction m generalizing lo with
  | nil => exact read_put x y v [] rfl
  | cons c m ih =>
    obtain ⟨a, b⟩ := c
    have h := (wfFrom_cons lo a b m).1 hm
    unfold Memory.write
    split
    · rw [read_put]
      exact (wfFrom_cons _ a b m).2 ⟨by omega, h.2⟩
    · split
      · subst_vars
        rw [read_put _ _ _ _ h.2.2.2]
        by_cases hy : y = a <;> simp [Memory.read, hy]
      · rename_i h1 h2
        simp only [Memory.read, ih (a + 1) h.2.2.2]
        by_cases hya : y = a
        · subst hya
          have : y ≠ x := fun e => h2 e.symm
          simp [this]
        · simp [hya]

/-- A read after a write gives the value written at its address and what was there before at every other. -/
theorem read_write (m : Memory) (x y : Nat) (v : Byte) (hm : m.wf = true) :
    (m.write x v).read y = if y = x then v else m.read y :=
  read_write_from 0 x y v m hm

/-- Two canonical memories that read alike everywhere are equal. -/
theorem wfFrom_ext (lo : Nat) (m m' : Memory) (h : Memory.wfFrom lo m = true) (h' : Memory.wfFrom lo m' = true)
    (hr : ∀ x, m.read x = m'.read x) : m = m' := by
  induction m generalizing lo m' with
  | nil =>
    cases m' with
    | nil => rfl
    | cons c m' =>
      obtain ⟨a, b⟩ := c
      have h2 := (wfFrom_cons lo a b m').1 h'
      have := hr a
      simp [Memory.read] at this
      exact absurd this.symm h2.2.2.1
  | cons c m ih =>
    obtain ⟨a, b⟩ := c
    have h1 := (wfFrom_cons lo a b m).1 h
    cases m' with
    | nil =>
      have := hr a
      simp [Memory.read] at this
      exact absurd this h1.2.2.1
    | cons c' m' =>
      obtain ⟨a', b'⟩ := c'
      have h2 := (wfFrom_cons lo a' b' m').1 h'
      have hra := hr a
      have hra' := hr a'
      rcases Nat.lt_trichotomy a a' with hlt | heq | hgt
      · exfalso
        have hn : a ≠ a' := by omega
        simp only [Memory.read, if_true, if_neg hn] at hra
        rw [read_below (a' + 1) a m' h2.2.2.2 (by omega)] at hra
        exact h1.2.2.1 hra
      · subst heq
        simp only [Memory.read, if_true] at hra
        subst hra
        have := ih (a + 1) m' h1.2.2.2 h2.2.2.2 (by
          intro x
          have hx := hr x
          simp only [Memory.read] at hx
          by_cases hxa : x = a
          · subst hxa
            rw [read_below (x + 1) x m h1.2.2.2 (by omega), read_below (x + 1) x m' h2.2.2.2 (by omega)]
          · simpa [hxa] using hx)
        rw [this]
      · exfalso
        have hn : a' ≠ a := by omega
        simp only [Memory.read, if_true, if_neg hn] at hra'
        rw [read_below (a + 1) a' m h1.2.2.2 (by omega)] at hra'
        exact h2.2.2.1 hra'.symm

/-- Equal memories are equal data: canonical memories that read alike are equal. -/
theorem memory_ext (m m' : Memory) (h : m.wf = true) (h' : m'.wf = true) (hr : ∀ x, m.read x = m'.read x) : m = m' :=
  wfFrom_ext 0 m m' h h' hr

/-- The memory of the state after reset has the canonical form. -/
theorem reset_mem_wf : State.reset.mem.wf = true := rfl

/-! ### The engine's port -/

theorem drawAmong_mem (v : Byte) (c : List Byte) (s : State) : (drawAmong v c s).2.mem = s.mem := by
  cases c <;> rfl

/-- A draw changes nothing but the count of draws. -/
theorem drawAmong_state (v : Byte) (c : List Byte) (s : State) :
    (drawAmong v c s).2 = { s with free := (drawAmong v c s).2.free } := by
  cases c <;> rfl

/-- Where there is no race nothing is drawn. -/
@[simp] theorem drawAmong_nil (v : Byte) (s : State) : drawAmong v [] s = (v, s) := rfl

/-- A draw is among the admitted values. -/
theorem drawAmong_cases (v : Byte) (c : List Byte) (s : State) :
    c = [] ∧ (drawAmong v c s).1 = v ∨ (drawAmong v c s).1 ∈ c := by
  cases c with
  | nil => exact .inl ⟨rfl, rfl⟩
  | cons a l =>
    right
    show (a :: l).getD (Config.freeNat s.free % (a :: l).length) v ∈ a :: l
    have h : Config.freeNat s.free % (a :: l).length < (a :: l).length := Nat.mod_lt _ (by simp)
    rw [List.getD_eq_getElem _ _ h]
    exact List.getElem_mem h

/-- What an engine read does to the state: at most a draw. -/
theorem engineRead_state (a : Nat) (s : State) :
    (engineRead a s).2 = { s with free := (engineRead a s).2.free } := drawAmong_state _ _ s

/-- An engine read of a byte that no other agent wrote during the command. -/
theorem engineRead_quiet (a : Nat) (s : State) (h : s.race.touched = []) : engineRead a s = (s.mem.read a, s) := by
  simp [engineRead, recorded, h]

/-- What an engine write does: one byte of memory, the record of races and the count of draws. -/
theorem engineWrite_state (a : Nat) (v : Byte) (s : State) :
    ∃ b n u, engineWrite a v s = { s with mem := s.mem.write a b, free := n, race := { s.race with wrote := u } } := by
  unfold engineWrite
  generalize hc : (if (recorded s.race.touched a).isEmpty then [] else [v, s.mem.read a]) = c
  obtain ⟨n, h⟩ : ∃ n, (drawAmong v c s).2 = { s with free := n } := ⟨_, drawAmong_state v c s⟩
  refine ⟨(drawAmong v c s).1, n, ⟨a, s.mem.read a, v⟩ :: s.race.wrote, ?_⟩
  simp only [h]

/-- An engine write of a byte that no other agent wrote during the command. -/
theorem engineWrite_quiet (a : Nat) (v : Byte) (s : State) (h : s.race.touched = []) :
    engineWrite a v s =
      { s with mem := s.mem.write a v, race := { s.race with wrote := ⟨a, s.mem.read a, v⟩ :: s.race.wrote } } := by
  simp [engineWrite, recorded, h]

theorem engineWrite_wf (a : Nat) (v : Byte) (s : State) (hm : s.mem.wf = true) (ha : a < 4294967296) :
    (engineWrite a v s).mem.wf = true := by
  obtain ⟨b, n, u, h⟩ := engineWrite_state a v s
  rw [h]
  exact write_wf s.mem a b hm ha

theorem writeBytes_wf (a : Nat) (bs : List Byte) (s : State) (hm : s.mem.wf = true)
    (ha : a + bs.length ≤ 4294967296) : (writeBytes a bs s).mem.wf = true := by
  induction bs generalizing a s with
  | nil => exact hm
  | cons b bs ih =>
    simp only [List.length_cons] at ha
    exact ih (a + 1) _ (engineWrite_wf a b s hm (by omega)) (by omega)

theorem writeTorn_wf (i a : Nat) (torn : BitVec 4) (bs : List Byte) (s : State) (hm : s.mem.wf = true)
    (ha : a + bs.length ≤ 4294967296) : (writeTorn i a torn bs s).mem.wf = true := by
  induction bs generalizing i a s with
  | nil => exact hm
  | cons b bs ih =>
    simp only [List.length_cons] at ha
    unfold writeTorn
    refine ih (i + 1) (a + 1) _ ?_ (by omega)
    split
    · exact engineWrite_wf a b s hm (by omega)
    · exact hm

/-- A write that goes through lies in frame memory and is not refused. -/
theorem goesThrough_iff (s : State) (w : PortWrite) :
    goesThrough s w = true ↔
      w.addr + w.bytes.length ≤ 4294967296 ∧ refuses s w.addr w.bytes.length .write = false := by
  simp [goesThrough]

theorem writePrefix_wf (n : Nat) (torn : BitVec 4) (ws : List PortWrite) (s : State) (hm : s.mem.wf = true) :
    (writePrefix n torn ws s).mem.wf = true := by
  induction ws generalizing n s with
  | nil => cases n <;> exact hm
  | cons w ws ih =>
    unfold writePrefix
    split
    · rename_i h
      have hb := (goesThrough_iff s w).1 h
      cases n with
      | zero => exact writeTorn_wf 0 w.addr torn w.bytes s hm hb.1
      | succ n => exact ih n _ (writeBytes_wf w.addr w.bytes s hm hb.1)
    · exact hm

/-- Another agent's write keeps the canonical form. -/
theorem otherWrite_wf (a : Nat) (v : Byte) (s : State) (hm : s.mem.wf = true) (ha : a < 4294967296) :
    (otherWrite a v s).mem.wf = true := by
  unfold otherWrite
  split
  · simp only [drawAmong_mem]
    exact write_wf _ _ _ hm ha
  · exact write_wf _ _ _ hm ha

/-- Another agent's read leaves memory as it is. -/
theorem otherRead_mem (f : List Byte) (a : Nat) (s : State) : (otherRead f a s).2.mem = s.mem := by
  unfold otherRead
  split
  · exact drawAmong_mem _ _ s
  · rfl

/-- What another agent's read does to the state: at most a draw. -/
theorem otherRead_state (f : List Byte) (a : Nat) (s : State) :
    (otherRead f a s).2 = { s with free := (otherRead f a s).2.free } := by
  unfold otherRead
  split
  · exact drawAmong_state _ _ s
  · rfl

end Sys2Proof.Machine
end

