-- ==== Sys2Proof/Laws/Ops.lean ====
section
/-! SUPPORT. The shared operations, each with what it can do said once: flows, landing points, row boundaries, the loop
over rows, prechecks and launches. The first part carries any property through them; the second gives their exact
result when nothing lands. -/

namespace Sys2Proof.Machine

/-! ### Carrying a property through an action -/

/-- `P` holds where the command goes on, and `Q` of the next state where the step ends in one. -/
def Flow.Sat (P Q : State → Prop) : Flow → Prop
  | .on s => P s
  | .ended (.next t) => Q t
  | .ended (.fault _) => True
  | .ended (.refused _) => True

@[simp] theorem sat_on (P Q : State → Prop) (s : State) : Flow.Sat P Q (.on s) ↔ P s := Iff.rfl

@[simp] theorem sat_next (P Q : State → Prop) (t : State) : Flow.Sat P Q (.ended (.next t)) ↔ Q t := Iff.rfl

@[simp] theorem sat_fault (P Q : State → Prop) (r : Fault) : Flow.Sat P Q (.ended (.fault r)) := trivial

@[simp] theorem sat_refused (P Q : State → Prop) (r : Refusal) : Flow.Sat P Q (.ended (.refused r)) := trivial

@[simp] theorem andThen_on (s : State) (g : State → Flow) : (Flow.on s).andThen g = g s := rfl

@[simp] theorem andThen_ended (o : Result) (g : State → Flow) : (Flow.ended o).andThen g = .ended o := rfl

@[simp] theorem out_on (s : State) : (Flow.on s).out = .next s := rfl

@[simp] theorem out_ended (o : Result) : (Flow.ended o).out = o := rfl

theorem sat_mono {P P' Q Q' : State → Prop} {f : Flow} (h : f.Sat P Q) (hP : ∀ s, P s → P' s) (hQ : ∀ s, Q s → Q' s) :
    f.Sat P' Q' := by
  cases f with
  | on s => exact hP s h
  | ended o =>
    cases o with
    | next t => exact hQ t h
    | fault _ => trivial
    | refused _ => trivial

theorem sat_andThen {P P' Q : State → Prop} {f : Flow} {g : State → Flow} (hf : f.Sat P Q)
    (hg : ∀ s, P s → (g s).Sat P' Q) : (f.andThen g).Sat P' Q := by
  cases f with
  | on s => exact hg s hf
  | ended o => cases o <;> exact hf

/-- A step that ends in a next state ends in one with `Q`. -/
theorem sat_out {P Q : State → Prop} {f : Flow} {t : State} (hf : f.Sat P Q) (hP : ∀ s, P s → Q s)
    (ht : f.out = .next t) : Q t := by
  cases f with
  | on s =>
    cases ht
    exact hP _ hf
  | ended o =>
    cases o with
    | next u =>
      cases ht
      exact hf
    | fault _ => cases ht
    | refused _ => cases ht

/-- Whether an item is an assertion of reset. -/
def isReset : HostItem → Bool
  | .resetOn _ _ => true
  | _ => false

/-- What a property must meet to be carried through a landing point: `P` while the command runs, `Q` of a state the
step ends in. -/
structure Lands (P Q : State → Prop) : Prop where
  script : ∀ l s, P s → P { s with script := l }
  act : ∀ ws i s, isReset i = false → P s → P (hostAct ws i s)
  reset : ∀ ws n torn l s, P s → Q { hostAct ws (.resetOn n torn) s with script := l }

theorem landItems_sat {P Q : State → Prop} (L : Lands P Q) (ws : List PortWrite) (l : List HostItem) (s : State)
    (h : P s) : (landItems ws l s).Sat P Q := by
  induction l generalizing s with
  | nil => exact L.script [] s h
  | cons i l ih =>
    cases i with
    | pass => exact L.script l s h
    | waitIdle => exact L.script _ _ (L.act ws .waitIdle s rfl h)
    | resetOn n torn => exact L.reset ws n torn l s h
    | write off n v => exact ih _ (L.act ws (.write off n v) s rfl h)
    | read off n => exact ih _ (L.act ws (.read off n) s rfl h)
    | memWrite a b => exact ih _ (L.act ws (.memWrite a b) s rfl h)
    | memRead a => exact ih _ (L.act ws (.memRead a) s rfl h)
    | resetOff => exact ih _ (L.act ws .resetOff s rfl h)

/-- A landing point carries `P`. -/
theorem land_sat {P Q : State → Prop} (L : Lands P Q) (ws : List PortWrite) (s : State) (h : P s) :
    (land ws s).Sat P Q := landItems_sat L ws s.script s h

/-- The updates of an ending carry what each of them keeps. -/
theorem inTurn_sat {P Q : State → Prop} (L : Lands P Q) (fs : List (State → State)) (hf : ∀ f ∈ fs, ∀ s, P s → P (f s))
    (s : State) (h : P s) : (inTurn fs s).Sat P Q := by
  induction fs generalizing s with
  | nil => exact h
  | cons f fs ih =>
    exact sat_andThen (P := P) (land_sat L [] _ (hf f List.mem_cons_self s h))
      (fun s1 h1 => ih (fun g hg => hf g (List.mem_cons_of_mem _ hg)) s1 h1)

/-- The end of a command: `P'` holds after it, and what lands on the pending word keeps it. -/
theorem finish_sat {P' Q : State → Prop} (L : Lands P' Q) (s : State) (h : P' (endCommand s)) : (finish s).Sat P' Q := by
  unfold finish
  split
  · exact land_sat L [] _ h
  · exact h

/-- Completion: `P` holds from STATUS.DONE on, `P'` from the end on. -/
theorem complete_sat {P P' Q : State → Prop} (L : Lands P Q) (L' : Lands P' Q) (s : State)
    (h : P (setDone (writesPerformed s))) (he : ∀ s, P s → P' (endCommand s)) : (complete s).Sat P' Q :=
  sat_andThen (P := P) (sat_andThen (P := P) (land_sat L [] _ h) fun _ h1 => h1) fun s1 h1 => finish_sat L' s1 (he s1 h1)

/-- An error: `P` holds from ERR_CODE on and the later updates keep it; `E` holds from the end on. -/
theorem raiseError_sat {P P' Q E : State → Prop} (L : Lands P Q) (LE : Lands E Q) (k : ErrKind) (a : Word) (s : State)
    (h : P (setErrCode k (writesPerformed s))) (ha : ∀ s, P s → P (setErrAddr a s)) (hs : ∀ s, P s → P (setErr s))
    (he : ∀ s, P s → E (endCommand s)) (hE : ∀ s, E s → Q s) : (raiseError k a s).Sat P' Q := by
  refine sat_andThen (P := E) (sat_andThen (P := P) ?_ fun s1 h1 => finish_sat LE s1 (he s1 h1)) hE
  refine sat_andThen (P := P) (land_sat L [] _ h) (fun s1 h1 => ?_)
  refine inTurn_sat L [setErrAddr a, setErr] ?_ s1 h1
  intro f hf
  rcases List.mem_cons.1 hf with rfl | hf
  · exact ha
  · rw [List.mem_singleton.1 hf]
    exact hs

/-- Abandonment: `P` holds from the valid bits on and PREEMPT keeps it; `E` holds from the end on. -/
theorem abandon_sat {P P' Q E : State → Prop} (L : Lands P Q) (LE : Lands E Q) (s : State)
    (h : P (invalidate (writesPerformed s))) (hp : ∀ s, P s → P (setPreempt s)) (he : ∀ s, P s → E (endCommand s))
    (hE : ∀ s, E s → Q s) : (abandon s).Sat P' Q := by
  refine sat_andThen (P := E) (sat_andThen (P := P) ?_ fun s1 h1 => finish_sat LE s1 (he s1 h1)) hE
  refine sat_andThen (P := P) (land_sat L [] _ h) (fun s1 h1 => ?_)
  refine inTurn_sat L [setPreempt] ?_ s1 h1
  intro f hf
  rw [List.mem_singleton.1 hf]
  exact hp

/-- What a property must meet to be carried through the rows of a command as well. -/
structure Carried (P Q : State → Prop) : Prop extends Lands P Q where
  abandon : ∀ s, P s → (abandon s).Sat P Q
  row : ∀ stage row s, P s → P (atRow stage row s)

/-- A row boundary carries `P`. -/
theorem boundary_sat {P Q : State → Prop} (C : Carried P Q) (s : State) (h : P s) : (boundary s).Sat P Q := by
  unfold boundary
  split
  · exact C.abandon s h
  · exact h

/-- The point between two stages carries `P`. -/
theorem betweenStages_sat {P Q : State → Prop} (C : Carried P Q) (s : State) (h : P s) : (betweenStages s).Sat P Q :=
  sat_andThen (land_sat C.toLands [] s h) (fun s1 h1 => boundary_sat C s1 h1)

/-- The loop over rows carries `P` when every row does. -/
theorem rowLoop_sat {P Q : State → Prop} (C : Carried P Q) (stage : Stage) (writes : Nat → State → List PortWrite)
    (body : Nat → State → Flow) (hb : ∀ y s, P s → (body y s).Sat P Q) (ys : List Nat) (s : State) (h : P s) :
    (rowLoop stage writes body ys s).Sat P Q := by
  induction ys generalizing s with
  | nil => exact land_sat C.toLands [] s h
  | cons y ys ih =>
    refine sat_andThen (P := P)
      (sat_andThen (P := P) (land_sat C.toLands _ _ (C.row stage y s h)) (fun s1 h1 => hb y s1 h1)) ?_
    intro s1 h1
    refine sat_andThen (P := P) (land_sat C.toLands [] s1 h1) ?_
    intro s2 h2
    cases ys with
    | nil => exact h2
    | cons y' ys => exact sat_andThen (P := P) (boundary_sat C s2 h2) (fun s3 h3 => ih s3 h3)

/-- Rows that only change the block's own state. -/
theorem pureRows_sat {P Q : State → Prop} (C : Carried P Q) (stage : Stage) (n : Nat) (row : Nat → State → State)
    (hr : ∀ y s, P s → P (row y s)) (s : State) (h : P s) : (pureRows stage n row s).Sat P Q :=
  rowLoop_sat C stage noWrites _ (fun y s1 h1 => (sat_on P Q (row y s1)).2 (hr y s1 h1)) _ s h

/-- What a property must meet to be carried through the writes of a command. -/
structure CarriedByWrites (P Q : State → Prop) : Prop extends Lands P Q where
  write : ∀ a v s, a < 4294967296 → P s → P (engineWrite a v s)
  refused : ∀ a s, P s → (raiseError .bus a s).Sat P Q

theorem writeBytes_sat {P : State → Prop} (hw : ∀ a v s, a < 4294967296 → P s → P (engineWrite a v s)) (a : Nat)
    (bs : List Byte) (s : State) (ha : a + bs.length ≤ 4294967296) (h : P s) : P (writeBytes a bs s) := by
  induction bs generalizing a s with
  | nil => exact h
  | cons b bs ih =>
    simp only [List.length_cons] at ha
    exact ih (a + 1) _ (by omega) (hw a b s (by omega) h)

theorem writeTorn_sat {P : State → Prop} (hw : ∀ a v s, a < 4294967296 → P s → P (engineWrite a v s)) (i a : Nat)
    (torn : BitVec 4) (bs : List Byte) (s : State) (ha : a + bs.length ≤ 4294967296) (h : P s) :
    P (writeTorn i a torn bs s) := by
  induction bs generalizing i a s with
  | nil => exact h
  | cons b bs ih =>
    simp only [List.length_cons] at ha
    unfold writeTorn
    refine ih (i + 1) (a + 1) _ (by omega) ?_
    split
    · exact hw a b s (by omega) h
    · exact h

/-- The writes that a reset performs carry whatever a write carries. -/
theorem writePrefix_sat {P : State → Prop} (hw : ∀ a v s, a < 4294967296 → P s → P (engineWrite a v s)) (n : Nat)
    (torn : BitVec 4) (ws : List PortWrite) (s : State) (h : P s) : P (writePrefix n torn ws s) := by
  induction ws generalizing n s with
  | nil => cases n <;> exact h
  | cons w ws ih =>
    unfold writePrefix
    split
    · rename_i hc
      have hb := (goesThrough_iff s w).1 hc
      cases n with
      | zero => exact writeTorn_sat hw 0 w.addr torn w.bytes s hb.1 h
      | succ n => exact ih n _ (writeBytes_sat hw w.addr w.bytes s hb.1 h)
    · exact h

/-- Performing writes carries `P`, and ends with BUS or the fault where it does not go through. -/
theorem performWrites_sat {P Q : State → Prop} (W : CarriedByWrites P Q) (ws : List PortWrite) (s : State) (h : P s) :
    (performWrites ws s).Sat P Q := by
  induction ws generalizing s with
  | nil => exact h
  | cons w ws ih =>
    unfold performWrites
    split
    · trivial
    · rename_i hb
      split
      · exact W.refused _ s h
      · exact sat_andThen (P := P)
          (land_sat W.toLands ws _ (writeBytes_sat W.write w.addr w.bytes s (Nat.le_of_not_lt hb) h)) (fun s1 h1 => ih s1 h1)

/-- Rows that write frame memory. -/
theorem writingRows_sat {P Q : State → Prop} (C : Carried P Q) (W : CarriedByWrites P Q) (stage : Stage) (n : Nat)
    (writes : Nat → State → List PortWrite) (s : State) (h : P s) : (writingRows stage n writes s).Sat P Q :=
  rowLoop_sat C stage writes _ (fun y s1 h1 => performWrites_sat W (writes y s1) s1 h1) _ s h

/-- A body after which the command completes. -/
theorem thenComplete_sat {P P' Q : State → Prop} (L : Lands P Q) {f : Flow} (hf : f.Sat P Q)
    (hc : ∀ s, P s → (complete s).Sat P' Q) : (thenComplete f).Sat P' Q :=
  sat_andThen (P' := P') (sat_andThen (P' := P) hf fun s h => land_sat L [] s h) fun s h => hc s h

/-- A command from acceptance on. -/
theorem runCommand_sat {P P' Q : State → Prop} (L : Lands P Q) (w : Word) (checks : State → List Check)
    (regions : State → List Region) (body : State → Flow) (s t : State) (ha : P (accept w s))
    (hf : ∀ c s1, P s1 → firstFail (checks s1) = some c → (raiseError c.kind c.addr s1).Sat P' Q)
    (hb : ∀ s1, P s1 → firstFail (checks s1) = none → (body s1).Sat P' Q) (hP : ∀ s, P' s → Q s)
    (ht : runCommand w checks regions body s = .next t) : Q t := by
  refine sat_out (P := P') ?_ hP ht
  refine sat_andThen (P := P) (land_sat L [] _ ha) ?_
  intro s1 h1
  cases hc : firstFail (checks s1) with
  | some c => exact hf c s1 h1 hc
  | none =>
    dsimp only
    split
    · trivial
    · exact hb s1 h1 hc

/-! ### What a host item can do -/

/-- What the world outside, short of reset, leaves as it is: all that only the engine writes (10_state.md R30, R87),
the parameters and the script; and how far it reaches into STATUS and the phase (R40, R160, R167). -/
structure HostOnly (s t : State) : Prop where
  snap : t.snap = s.snap
  report : t.report = s.report
  valid : t.valid = s.valid
  dims : t.dims = s.dims
  dimsBefore : t.dimsBefore = s.dimsBefore
  lut : t.lut = s.lut
  bufs : t.bufs = s.bufs
  rngState : t.rngState = s.rngState
  diff : t.diff = s.diff
  plat : t.plat = s.plat
  script : t.script = s.script
  styleUnk : t.status.styleUnk = s.status.styleUnk
  msizeFb : t.status.msizeFb = s.status.msizeFb
  done : t.status.done = true → s.status.done = true
  err : t.status.err = true → s.status.err = true
  preempt : t.status.preempt = true → s.status.preempt = true
  pending : s.status.pending = true → t.status.pending = true
  phase : busy s = true → t.phase = s.phase
  idle : busy s = false → t.phase = .idle ∧ t.status.pending = s.status.pending ∨
    s.inReset = false ∧ t.status = s.status ∧ ∃ w, t = { s with phase := .fetch w }
  inReset : t.inReset = true → s.inReset = true
  held : s.inReset = true → t.cfg = s.cfg ∧ t.irqEn = s.irqEn ∧ t.status = s.status ∧ t.phase = s.phase

theorem hostOnly_refl (s : State) (h : busy s = false → s.phase = .idle) : HostOnly s s := by
  constructor <;> simp_all

theorem idle_of_busy (s : State) (h : busy s = false) : s.phase = .idle := by
  simpa [busy] using h

theorem hostOnly_self (s : State) : HostOnly s s := hostOnly_refl s (idle_of_busy s)

/-- A change to the answers and the count of draws alone. -/
theorem hostOnly_log (s : State) (l : List PortResp) (n : Nat) : HostOnly s { s with portLog := l, free := n } := by
  constructor
  all_goals first
    | exact rfl
    | exact id
    | exact fun _ => rfl
    | exact fun hb => Or.inl ⟨idle_of_busy s hb, rfl⟩
    | exact fun _ => ⟨rfl, rfl, rfl, rfl⟩

theorem drawDims_state (f : Dims → Word) (s : State) : ∃ n, (drawDims f s).2 = { s with free := n } := by
  by_cases h : busy s = true
  · exact ⟨s.free + 1, by simp [drawDims, h]⟩
  · exact ⟨s.free, by simp [drawDims, h]⟩

theorem regRead_state (r : Reg) (s : State) : ∃ n, (regRead r s).2 = { s with free := n } := by
  cases r
  case lutWin j =>
    by_cases h : busy s = true
    · exact ⟨s.free + 1, by simp [regRead, h]⟩
    · exact ⟨s.free, by simp [regRead, h]⟩
  case workDim => exact drawDims_state _ s
  case latSrcDim => exact drawDims_state _ s
  case latScale => exact drawDims_state _ s
  all_goals exact ⟨s.free, rfl⟩

/-- A read of the window changes the answers and, for a value the spec leaves open, the count of draws. -/
theorem portRead_state (off : BitVec 12) (nb : Nat) (s : State) :
    ∃ l n, portRead off nb s = { s with portLog := l, free := n } := by
  unfold portRead
  split
  · exact ⟨_, s.free, rfl⟩
  · split
    · exact ⟨_, s.free, rfl⟩
    · split
      · exact ⟨_, s.free, rfl⟩
      · rename_i r _
        obtain ⟨n, hn⟩ := regRead_state r s
        rw [hn]
        exact ⟨_, n, rfl⟩

theorem submit_hostOnly (w : Word) (s : State) (h : s.inReset = false) : HostOnly s (submit w s) := by
  unfold submit
  split
  · rename_i hb
    constructor <;> simp_all
  · rename_i hb
    have hi := idle_of_busy s (by simpa using hb)
    constructor <;> simp_all

/-- A register write other than CMD's changes a configuration register, IRQ_EN or the W1C bits. -/
theorem regWrite_hostOnly (r : Reg) (v : Word) (s : State) (h : s.inReset = false) : HostOnly s (regWrite r v s) := by
  cases r
  case cmd => exact submit_hostOnly v s h
  all_goals
    constructor
    all_goals first
      | exact rfl
      | exact id
      | (intro hb; exact .inl ⟨idle_of_busy s hb, rfl⟩)
      | (intro hr; rw [h] at hr; cases hr)
      | (intro _; rfl)
      | (simp only [regWrite, clearStatus, Bool.and_eq_true]; intro hx; exact hx.1)

theorem portWrite_hostOnly (off : BitVec 12) (nb : Nat) (v : Word) (s : State) : HostOnly s (portWrite off nb v s) := by
  unfold portWrite
  split
  · exact hostOnly_log s _ _
  · split
    · exact hostOnly_self s
    · rename_i hr
      split
      · exact hostOnly_self s
      · exact regWrite_hostOnly _ v s (by simpa using hr)

/-- Everything an item of the world outside, short of reset, can do to the block. -/
theorem hostAct_hostOnly (ws : List PortWrite) (i : HostItem) (s : State) (h : isReset i = false) :
    HostOnly s (hostAct ws i s) := by
  cases i with
  | write off n v => exact portWrite_hostOnly off n v s
  | read off n =>
    obtain ⟨l, k, e⟩ := portRead_state off n s
    rw [hostAct, e]
    exact hostOnly_log s l k
  | waitIdle =>
    obtain ⟨l, k, e⟩ := portRead_state 0x014 4 s
    rw [hostAct, e]
    exact hostOnly_log s l k
  | pass => exact hostOnly_self s
  | resetOn n torn => cases h
  | memWrite a b =>
    simp only [hostAct, otherWrite]
    split
    · rename_i hb
      generalize (if (newValues s.race.wrote a.toNat).isEmpty then [] else b :: newValues s.race.wrote a.toNat) = c
      obtain ⟨k, e⟩ : ∃ k, (drawAmong b c s).2 = { s with free := k } := ⟨_, drawAmong_state b c s⟩
      rw [e]
      constructor <;> simp_all
    · rename_i hb
      have hi := idle_of_busy s (by simpa using hb)
      constructor <;> simp_all
  | memRead a =>
    simp only [hostAct]
    rw [otherRead_state]
    exact hostOnly_log s _ _
  | resetOff =>
    constructor
    all_goals first
      | exact rfl
      | exact id
      | exact fun _ => rfl
      | exact fun hb => Or.inl ⟨idle_of_busy s hb, rfl⟩
      | exact fun _ => ⟨rfl, rfl, rfl, rfl⟩
      | exact fun hc => absurd hc (by simp [hostAct])

/-! ### When nothing lands -/

/-- With an empty script a landing point changes nothing. -/
@[simp] theorem land_quiet (ws : List PortWrite) (s : State) (h : s.script = []) : land ws s = .on s := by
  unfold land
  rw [h]
  have e : ({ s with script := [] } : State) = s := by
    cases s
    simp_all
  show Flow.on { s with script := [] } = Flow.on s
  rw [e]

/-- Where nothing lands on it, the state after completion. -/
def completed (s : State) : State := endCommand (setDone (writesPerformed s))

/-- Where nothing lands on it, the state after an error. -/
def failed (k : ErrKind) (a : Word) (s : State) : State :=
  endCommand (setErr (setErrAddr a (setErrCode k (writesPerformed s))))

/-- Where nothing lands on it, the state after abandonment. -/
def abandoned (s : State) : State := endCommand (setPreempt (invalidate (writesPerformed s)))

@[simp] theorem finish_quiet (s : State) (h : s.script = []) : finish s = .on (endCommand s) := by
  unfold finish
  rw [land_quiet _ (endCommand s) h, ite_self]

@[simp] theorem complete_quiet (s : State) (h : s.script = []) : complete s = .on (completed s) := by
  simp [complete, inTurn, h, completed]

@[simp] theorem raiseError_quiet (k : ErrKind) (a : Word) (s : State) (h : s.script = []) :
    raiseError k a s = .ended (.next (failed k a s)) := by
  simp [raiseError, inTurn, h, failed]

@[simp] theorem abandon_quiet (s : State) (h : s.script = []) : abandon s = .ended (.next (abandoned s)) := by
  simp [abandon, inTurn, h, abandoned]

/-- With an empty script a body that goes on completes. -/
theorem thenComplete_quiet (s : State) (h : s.script = []) : thenComplete (.on s) = .on (completed s) := by
  unfold thenComplete
  rw [andThen_on, land_quiet _ _ h, andThen_on, complete_quiet s h]

/-- With a pass next, a landing point takes it and nothing else. -/
theorem land_of_pass (ws : List PortWrite) (s : State) (rest : List HostItem) (h : s.script = .pass :: rest) :
    land ws s = .on { s with script := rest } := by
  unfold land
  rw [h]
  rfl

/-- With a write of CMD as the only item, a landing point on a running command makes its word pending. -/
theorem land_of_word (ws : List PortWrite) (s : State) (w : Word) (h : s.script = [.write 0x010 4 w])
    (hr : s.inReset = false) (hb : busy s = true) :
    land ws s = .on { s with script := [], pendCmd := w, status := { s.status with pending := true } } := by
  unfold land
  rw [h]
  have e : hostAct ws (.write 0x010 4 w) s = { s with pendCmd := w, status := { s.status with pending := true } } := by
    simp [hostAct, portWrite, portTakes, hr, regAt, regWrite, submit, hb]
  show landItems ws [] (hostAct ws (.write 0x010 4 w) s) = _
  rw [e]
  rfl

/-- With no word pending a row boundary changes nothing. -/
@[simp] theorem boundary_quiet (s : State) (h : s.status.pending = false) : boundary s = .on s := by
  simp [boundary, h]

/-- With nothing landing the engine goes on from stage to stage. -/
@[simp] theorem betweenStages_quiet (s : State) (h : Quiet s) : betweenStages s = .on s := by
  unfold betweenStages
  rw [land_quiet _ _ h.1]
  exact boundary_quiet s h.2

theorem quiet_atRow (stage : Stage) (row : Nat) (s : State) (h : Quiet s) : Quiet (atRow stage row s) := h

/-- The rows of a stage when nothing lands: one after another. -/
theorem rowLoop_quiet (stage : Stage) (writes : Nat → State → List PortWrite) (body : Nat → State → Flow)
    (f : Nat → State → State) (I : State → Prop) (hI : ∀ s, I s → Quiet s)
    (hrow : ∀ y s, I s → I (atRow stage y s)) (hf : ∀ y s, I s → I (f y s)) (ys : List Nat)
    (hb : ∀ y s, y ∈ ys → I s → body y s = .on (f y s)) (s : State) (h : I s) :
    rowLoop stage writes body ys s = .on (ys.foldl (fun s y => f y (atRow stage y s)) s) := by
  induction ys generalizing s with
  | nil => exact land_quiet [] s (hI s h).1
  | cons y ys ih =>
    have h0 := hrow y s h
    have h1 := hf y _ h0
    have q1 := hI _ h1
    unfold rowLoop
    rw [land_quiet _ _ (hI _ h0).1, andThen_on, hb y _ (List.mem_cons_self) h0, andThen_on, land_quiet _ _ q1.1,
      andThen_on]
    cases ys with
    | nil => rfl
    | cons y' ys =>
      dsimp only
      rw [boundary_quiet _ q1.2]
      exact ih (fun z s1 hz => hb z s1 (List.mem_cons_of_mem _ hz)) _ h1

/-- Rows that only change the block's own state, when nothing lands. -/
theorem pureRows_quiet (stage : Stage) (n : Nat) (row : Nat → State → State) (s : State)
    (hq : ∀ y s, Quiet s → Quiet (row y s)) (h : Quiet s) :
    pureRows stage n row s = .on ((List.range n).foldl (fun s y => row y (atRow stage y s)) s) :=
  rowLoop_quiet stage noWrites _ row Quiet (fun _ q => q) (fun y s q => quiet_atRow stage y s q) hq _
    (fun _ _ _ _ => rfl) s h

/-- A stage that appends one row to a list for every row of the buffer it reads ends with all of them: `get` is the
list, `row` the new row, which reads nothing that the stage's rows change. -/
theorem fold_rows {α : Type} (n : Nat) (step : Nat → State → State) (get : State → List α) (row : Nat → State → α)
    (s0 : State) (R : State → Prop) (h0 : R s0)
    (hstep : ∀ y s, R s → R (step y s) ∧ get (step y s) = get s ++ [row y s0]) :
    R ((List.range n).foldl (fun s y => step y s) s0) ∧
      get ((List.range n).foldl (fun s y => step y s) s0) = get s0 ++ (List.range n).map fun y => row y s0 := by
  induction n with
  | zero => simpa using h0
  | succ n ih =>
    rw [List.range_succ, List.foldl_append, List.map_append, ← List.append_assoc]
    obtain ⟨hR, hg⟩ := ih
    obtain ⟨hR', hg'⟩ := hstep n _ hR
    refine ⟨hR', ?_⟩
    simp only [List.foldl_cons, List.foldl_nil, List.map_cons, List.map_nil]
    rw [hg', hg]

/-- A command when nothing lands: the first failing check ends it, or its regions refuse it, or its body runs. -/
theorem runCommand_quiet (w : Word) (checks : State → List Check) (regions : State → List Region) (body : State → Flow)
    (s : State) (h : s.script = []) :
    runCommand w checks regions body s =
      match firstFail (checks (accept w s)) with
      | some c => .next (failed c.kind c.addr (accept w s))
      | none =>
        if (regions (accept w s)).any (meetsDevice (accept w s)) then .refused .deviceRegion
        else (body (accept w s)).out := by
  unfold runCommand
  rw [land_quiet _ _ (by simpa using h)]
  simp only [andThen_on]
  cases firstFail (checks (accept w s)) with
  | some c =>
    dsimp only
    rw [raiseError_quiet _ _ _ (by simpa using h)]
    rfl
  | none =>
    dsimp only
    split <;> rfl

/-- A command whose checks pass and whose regions are ordinary memory runs its body. -/
theorem runCommand_runs (w : Word) (checks : State → List Check) (regions : State → List Region) (body : State → Flow)
    (s : State) (h : s.script = []) (hc : firstFail (checks (accept w s)) = none)
    (hr : (regions (accept w s)).any (meetsDevice (accept w s)) = false) :
    runCommand w checks regions body s = (body (accept w s)).out := by
  rw [runCommand_quiet w checks regions body s h, hc, hr]
  rfl

/-- A command whose precheck fails reports the first failing check. -/
theorem runCommand_fails (w : Word) (checks : State → List Check) (regions : State → List Region) (body : State → Flow)
    (s : State) (h : s.script = []) (c : Check) (hc : firstFail (checks (accept w s)) = some c) :
    runCommand w checks regions body s = .next (failed c.kind c.addr (accept w s)) := by
  rw [runCommand_quiet w checks regions body s h, hc]

/-- The error of a precheck leaves the state after acceptance and the report (60_exceptions.md R413). -/
theorem failed_accept (k : ErrKind) (a w : Word) (s : State) :
    failed k a (accept w s) = afterError k (cmdOp w) a s := rfl

/-- The completion of a command that has done nothing. -/
theorem completed_accept (w : Word) (s : State) : completed (accept w s) = afterCommand s := rfl

/-! ### The order of checks -/

@[simp] theorem firstFail_nil : firstFail [] = none := rfl

/-- The first check of a list that fails is the one reported (60_exceptions.md R415). -/
@[simp] theorem firstFail_cons (c : Check) (cs : List Check) :
    firstFail (c :: cs) = if c.fails then some c else firstFail cs := by
  simp [firstFail, List.find?_cons]
  cases c.fails <;> rfl

theorem firstFail_none (cs : List Check) : firstFail cs = none ↔ ∀ c ∈ cs, c.fails = false := by
  simp [firstFail]

theorem firstFail_some {cs : List Check} {c : Check} (h : firstFail cs = some c) : c ∈ cs ∧ c.fails = true :=
  ⟨List.mem_of_find?_eq_some h, List.find?_some (p := fun c : Check => c.fails) h⟩

end Sys2Proof.Machine
end

