-- ==== Sys2Proof/Laws/PerInstr.lean ====
section
/-! SUPPORT. The family of statements made per instruction: `EncodeFormat` says that the encoding of an instruction
keeps to the two formats of 30_encoding.md R120: a legal command word has RSV 0, an assigned OP and a SEL that its OP
admits; an assigned style code has a family that has variants (R131). -/

namespace Sys2Proof.Laws.EncodeFormat

/-- What the format asks of an encoding; the two catch-all instructions carry any word or code they catch. -/
def Statement (i : Instr) : Prop :=
  match encode i with
  | .cmd w =>
    i = .illegalCmd w ∨
      cmdRsv w = 0 ∧ (cmdOp w).toNat ≤ 9 ∧ (cmdSel w).toNat ≤ 4 ∧ (cmdOp w ≠ 9 → cmdSel w = 0)
  | .style c => i = .passthrough c ∨ 1 ≤ c.toNat / 16 ∧ c.toNat / 16 ≤ 8

theorem nop : Statement .nop := Or.inr (by decide)

theorem runFrame : Statement .runFrame := Or.inr (by decide)

theorem buildLut : Statement .buildLut := Or.inr (by decide)

theorem sample : Statement .sample := Or.inr (by decide)

theorem tonemap : Statement .tonemap := Or.inr (by decide)

theorem dither : Statement .dither := Or.inr (by decide)

theorem depth : Statement .depth := Or.inr (by decide)

theorem palette : Statement .palette := Or.inr (by decide)

theorem upscale : Statement .upscale := Or.inr (by decide)

theorem dumpIbuf : Statement .dumpIbuf := Or.inr (by decide)

theorem dumpTbuf : Statement .dumpTbuf := Or.inr (by decide)

theorem dumpMbuf : Statement .dumpMbuf := Or.inr (by decide)

theorem dumpDbuf : Statement .dumpDbuf := Or.inr (by decide)

theorem dumpCbuf : Statement .dumpCbuf := Or.inr (by decide)

theorem illegalCmd (w : Word) : Statement (.illegalCmd w) := Or.inl rfl

theorem edFloydSteinberg : Statement .edFloydSteinberg := Or.inr (by decide)

theorem edAtkinson : Statement .edAtkinson := Or.inr (by decide)

theorem edJjn : Statement .edJjn := Or.inr (by decide)

theorem edStucki : Statement .edStucki := Or.inr (by decide)

theorem edBurkes : Statement .edBurkes := Or.inr (by decide)

theorem edSierra : Statement .edSierra := Or.inr (by decide)

theorem edSierra2 : Statement .edSierra2 := Or.inr (by decide)

theorem edSierraLite : Statement .edSierraLite := Or.inr (by decide)

theorem ordBayer : Statement .ordBayer := Or.inr (by decide)

theorem ordKnoll : Statement .ordKnoll := Or.inr (by decide)

theorem linesH : Statement .linesH := Or.inr (by decide)

theorem linesV : Statement .linesV := Or.inr (by decide)

theorem linesD : Statement .linesD := Or.inr (by decide)

theorem noiseBlue : Statement .noiseBlue := Or.inr (by decide)

theorem noiseWhite : Statement .noiseWhite := Or.inr (by decide)

theorem noiseStipple : Statement .noiseStipple := Or.inr (by decide)

theorem noiseVoronoi : Statement .noiseVoronoi := Or.inr (by decide)

theorem waveSinX : Statement .waveSinX := Or.inr (by decide)

theorem waveSinY : Statement .waveSinY := Or.inr (by decide)

theorem waveSinR : Statement .waveSinR := Or.inr (by decide)

theorem waveSqrX : Statement .waveSqrX := Or.inr (by decide)

theorem waveSqrY : Statement .waveSqrY := Or.inr (by decide)

theorem waveSqrR : Statement .waveSqrR := Or.inr (by decide)

theorem patChecker : Statement .patChecker := Or.inr (by decide)

theorem patGrid : Statement .patGrid := Or.inr (by decide)

theorem patRandom : Statement .patRandom := Or.inr (by decide)

theorem patGradient : Statement .patGradient := Or.inr (by decide)

theorem vcOstromoukhov : Statement .vcOstromoukhov := Or.inr (by decide)

theorem sfcRiemersma : Statement .sfcRiemersma := Or.inr (by decide)

theorem passthrough (code : Byte) : Statement (.passthrough code) := Or.inl rfl

end Sys2Proof.Laws.EncodeFormat
end

