-- ==== Sys2Proof/Laws/Stages.lean ====
section
/-! SUPPORT. The stages when nothing lands: what each leaves, said once. Every lemma gives the whole next state. -/

namespace Sys2Proof.Machine

theorem rows_eq {α : Type} (width height : Nat) (f : Nat → Nat → α) :
    rows width height f = (List.range height).map fun y => rowOf (fun x => f x y) width := rfl

theorem rows_succ {α : Type} (width n : Nat) (f : Nat → Nat → α) :
    rows width (n + 1) f = rows width n f ++ [rowOf (fun x => f x n) width] := by
  simp [rows_eq, List.range_succ]

/-! ### The stages that fill a working buffer -/

theorem tonemap_rows (n : Nat) (s : State) (w : Word) (st : Stage) (r : Nat) (hp : s.phase = .run w st r) :
    ∃ st' r', (List.range n).foldl (fun s y => tonemapRow y (atRow .tonemap y s)) s =
      { s with
        bufs := { s.bufs with tbuf := s.bufs.tbuf ++ rows (workW s) n fun x y => lutGet s.lut.ram (px s.bufs.ibuf x y) }
        phase := .run w st' r' } := by
  induction n with
  | zero => exact ⟨st, r, by simp [rows, ← hp]⟩
  | succ n ih =>
    obtain ⟨st', r', e⟩ := ih
    refine ⟨.tonemap, n, ?_⟩
    rw [List.range_succ, List.foldl_append, e]
    simp [rows_succ, tonemapRow, atRow, workW]

/-- The TONEMAP stage when nothing lands (42_tone_curve_lut.md R225). -/
theorem stageTonemap_quiet (s : State) (w : Word) (st : Stage) (r : Nat) (hq : Quiet s) (hp : s.phase = .run w st r) :
    ∃ st' r', stageTonemap s = .on
      { buildIfNeeded s with
        bufs := { s.bufs with
          tbuf := rows (workW s) (workH s) fun x y => lutGet (buildIfNeeded s).lut.ram (px s.bufs.ibuf x y) }
        valid := { ibuf := s.valid.ibuf, tbuf := true, mbuf := false, dbuf := false, cbuf := false }
        phase := .run w st' r' } := by
  have e0 : buildIfNeeded s = { s with lut := (buildIfNeeded s).lut } := by
    unfold buildIfNeeded
    split <;> rfl
  generalize (buildIfNeeded s).lut = l at e0
  rw [e0]
  obtain ⟨st', r', e⟩ := tonemap_rows (workH s) (startTonemap { s with lut := l }) w st r hp
  refine ⟨st', r', ?_⟩
  unfold stageTonemap
  rw [e0, land_quiet _ _ (by exact hq.1), andThen_on,
    pureRows_quiet .tonemap _ tonemapRow _ (fun y s q => q) (by exact hq), andThen_on]
  rw [show workH ({ s with lut := l } : State) = workH s from rfl, e]
  simp [workW, workH]

theorem depth_rows (n : Nat) (s : State) (w : Word) (st : Stage) (r : Nat) (hp : s.phase = .run w st r) :
    ∃ st' r', (List.range n).foldl (fun s y => depthRow y (atRow .depth y s)) s =
      { s with
        bufs := { s.bufs with
          dbuf := s.bufs.dbuf ++
            rows (workW s) n fun p y => depthPixel s.snap.depth.toNat (workW s) s.bufs.mbuf p y }
        phase := .run w st' r' } := by
  induction n with
  | zero => exact ⟨st, r, by simp [rows, ← hp]⟩
  | succ n ih =>
    obtain ⟨st', r', e⟩ := ih
    refine ⟨.depth, n, ?_⟩
    rw [List.range_succ, List.foldl_append, e]
    simp [rows_succ, depthRow, atRow, workW]

/-- The DEPTH stage when nothing lands (46_depth_shadow.md R340). -/
theorem stageDepth_quiet (s : State) (w : Word) (st : Stage) (r : Nat) (hq : Quiet s) (hp : s.phase = .run w st r) :
    ∃ st' r', stageDepth s = .on
      { s with
        bufs := { s.bufs with
          dbuf := rows (workW s) (workH s) fun p y => depthPixel s.snap.depth.toNat (workW s) s.bufs.mbuf p y }
        valid := { s.valid with dbuf := true, cbuf := false }
        phase := .run w st' r' } := by
  obtain ⟨st', r', e⟩ := depth_rows (workH s) (startDepth s) w st r hp
  refine ⟨st', r', ?_⟩
  unfold stageDepth
  rw [pureRows_quiet .depth _ depthRow (startDepth s) (fun y s q => q) hq, andThen_on, e]
  simp [workW]

theorem palette_rows (n : Nat) (s : State) (w : Word) (st : Stage) (r : Nat) (hp : s.phase = .run w st r) :
    ∃ st' r', (List.range n).foldl (fun s y => paletteRow y (atRow .palette y s)) s =
      { s with
        bufs := { s.bufs with
          cbuf := s.bufs.cbuf ++ rows (workW s) n fun x y => palMap s.snap.pal (palN s) (px s.bufs.dbuf x y) }
        phase := .run w st' r' } := by
  induction n with
  | zero => exact ⟨st, r, by simp [rows, ← hp]⟩
  | succ n ih =>
    obtain ⟨st', r', e⟩ := ih
    refine ⟨.palette, n, ?_⟩
    rw [List.range_succ, List.foldl_append, e]
    simp [rows_succ, paletteRow, atRow, workW, palN]

/-- The PALETTE stage when nothing lands (47_palette_interp.md R350). -/
theorem stagePalette_quiet (s : State) (w : Word) (st : Stage) (r : Nat) (hq : Quiet s) (hp : s.phase = .run w st r) :
    ∃ st' r', stagePalette s = .on
      { s with
        bufs := { s.bufs with
          cbuf := rows (workW s) (workH s) fun x y => palMap s.snap.pal (palN s) (px s.bufs.dbuf x y) }
        valid := { s.valid with cbuf := true }
        phase := .run w st' r' } := by
  obtain ⟨st', r', e⟩ := palette_rows (workH s) (startPalette s) w st r hp
  refine ⟨st', r', ?_⟩
  unfold stagePalette
  rw [pureRows_quiet .palette _ paletteRow (startPalette s) (fun y s q => q) hq, andThen_on, e]
  simp [workW, palN]

/-! ### The dither variants -/

/-- A state inside a dither stage: what its rows change is MBUF, RNG_STATE, the accumulators and the row. -/
def ditherState (s : State) (m : List (List Byte)) (c : Word × Diffuser) (p : Phase) : State :=
  { s with bufs := { s.bufs with mbuf := m }, rngState := c.1, diff := c.2, phase := p }

/-- The rows of a variant one after another: `g y c` gives row y and what is left of RNG_STATE and the accumulators. -/
def variantRows (g : Nat → Word × Diffuser → List Byte × (Word × Diffuser)) (n : Nat) (c : Word × Diffuser) :
    List (List Byte) × (Word × Diffuser) :=
  (List.range n).foldl (fun a y => (a.1 ++ [(g y a.2).1], (g y a.2).2)) ([], c)

theorem variantRows_succ (g : Nat → Word × Diffuser → List Byte × (Word × Diffuser)) (n : Nat) (c : Word × Diffuser) :
    variantRows g (n + 1) c =
      ((variantRows g n c).1 ++ [(g n (variantRows g n c).2).1], (g n (variantRows g n c).2).2) := by
  simp [variantRows, List.range_succ]

/-- The end of the dither stage when nothing lands. -/
theorem endDither_quiet (s : State) (m : List (List Byte)) (c : Word × Diffuser) (w : Word) (st : Stage) (r : Nat)
    (hq : Quiet s) : (endDither (ditherState s m c (.run w st r))).out = .next (ditherResult w m c.1 s) := by
  have hw : runWord (ditherState s m c (.run w st r)) = w := rfl
  unfold endDither runsFrame
  rw [hw]
  by_cases h : decodeCmd w = .runFrame
  · simp only [h, decide_true, if_true]
    rw [betweenStages_quiet _ (by exact hq)]
    simp [ditherResult, h, ditherState, mbufDone, atRow]
  · simp only [h, decide_false]
    have hpend : s.status.pending = false := hq.2
    rw [if_neg (by simp), thenComplete_quiet _ (by exact hq.1)]
    simp [ditherResult, h, ditherState, mbufDone, completed, setDone, writesPerformed, endCommand, hpend]

/-- A variant when nothing lands: its rows one after another, then the end of the dither stage. -/
theorem runStyle_quiet (setUp : State → State) (row : Nat → State → List Byte × State)
    (g : Nat → Word × Diffuser → List Byte × (Word × Diffuser)) (c : Word × Diffuser) (s : State) (w : Word) (r : Nat)
    (hq : Quiet s) (hp : s.phase = .run w .dither r)
    (hset : setUp { s with bufs := { s.bufs with mbuf := [] } } = ditherState s [] c s.phase)
    (hrow : ∀ y m c p, row y (ditherState s m c p) = ((g y c).1, ditherState s m (g y c).2 p)) :
    runStyle setUp row s =
      .next (ditherResult w (variantRows g (workH s) c).1 (variantRows g (workH s) c).2.1 s) := by
  have hloop : ∀ n, ∃ r', (List.range n).foldl (fun t y => (fun (y : Nat) (t : State) =>
      let s1 := (row y t).2
      ({ s1 with bufs := { s1.bufs with mbuf := s1.bufs.mbuf ++ [(row y t).1] } } : State)) y (atRow .dither y t))
        (ditherState s [] c s.phase) =
      ditherState s (variantRows g n c).1 (variantRows g n c).2 (.run w .dither r') := by
    intro n
    induction n with
    | zero => exact ⟨r, by rw [hp]; rfl⟩
    | succ n ih =>
      obtain ⟨r', e⟩ := ih
      refine ⟨n, ?_⟩
      rw [List.range_succ, List.foldl_append, e]
      simp only [List.foldl_cons, List.foldl_nil]
      rw [atRow_run .dither n _ w .dither r' rfl]
      have e2 : ({ ditherState s (variantRows g n c).1 (variantRows g n c).2 (.run w .dither r') with
          phase := .run w .dither n } : State) =
          ditherState s (variantRows g n c).1 (variantRows g n c).2 (.run w .dither n) := rfl
      rw [e2]
      simp only [hrow, variantRows_succ]
      rfl
  obtain ⟨r', e⟩ := hloop (workH s)
  unfold runStyle
  rw [hset, pureRows]
  rw [rowLoop_quiet .dither noWrites _
    (fun y t => let s1 := (row y t).2; { s1 with bufs := { s1.bufs with mbuf := s1.bufs.mbuf ++ [(row y t).1] } })
    (fun t => ∃ m c p, t = ditherState s m c p)
    (by rintro t ⟨m, c, p, rfl⟩; exact hq)
    (by
      rintro y t ⟨m, c, p, rfl⟩
      exact ⟨m, c, (atRow .dither y (ditherState s m c p)).phase, rfl⟩)
    (by
      rintro y t ⟨m, c, p, rfl⟩
      simp only [hrow]
      exact ⟨_, _, _, rfl⟩)
    _ (fun _ _ _ _ => rfl) _ ⟨[], c, s.phase, rfl⟩, andThen_on, e]
  exact endDither_quiet s _ _ w .dither r' hq

theorem variantRows_pointwise (f : Nat → List Byte) (n : Nat) (c : Word × Diffuser) :
    variantRows (fun y c => (f y, c)) n c = ((List.range n).map f, c) := by
  induction n with
  | zero => rfl
  | succ n ih => rw [variantRows_succ, ih, List.range_succ, List.map_append]; rfl

/-- A pointwise variant when nothing lands (45_threshold_dither.md R300, 43_dither_dispatch.md R253): `f` gives the
element from the stage's own state, which its rows leave as it is. -/
theorem runPointwise_quiet (f : State → Nat → Nat → Byte → Byte) (s : State) (w : Word) (r : Nat) (hq : Quiet s)
    (hp : s.phase = .run w .dither r)
    (hf : ∀ m c p x y i, f (ditherState s m c p) x y i = f s x y i) :
    runPointwise f s =
      .next (ditherResult w (rows (workW s) (workH s) fun x y => f s x y (px s.bufs.tbuf x y)) s.rngState s) := by
  unfold runPointwise
  rw [runStyle_quiet (fun s => s) _
    (fun y c => (rowOf (fun x => f s x y (px s.bufs.tbuf x y)) (workW s), c)) (s.rngState, s.diff) s w r hq hp rfl
    (by
      intro y m c p
      simp only [hf]
      rfl)]
  rw [variantRows_pointwise]
  rfl

/-! ### The SAMPLE stage -/

/-- The luminance of the pixel at an address of a memory (41_downsampler.md R204, R205). -/
def lumAt (m : Memory) (a : Nat) : Byte := lum (m.read a) (m.read (a + 1)) (m.read (a + 2))

/-- A pixel read that no other agent races with. -/
theorem samplePixel_quiet (a : Nat) (s : State) (h : s.race.touched = []) : samplePixel a s = (lumAt s.mem a, s) := by
  unfold samplePixel
  simp only [engineRead_quiet _ s h]
  rfl

/-- One row of the SAMPLE stage where every read goes through. -/
theorem sampleRow_quiet (as : List Nat) (row : List Byte) (s : State) (hs : s.script = []) (ht : s.race.touched = [])
    (ha : ∀ a ∈ as, a + 4 ≤ 4294967296 ∧ refuses s a 4 .read = false) :
    sampleRow as row s =
      .on { s with bufs := { s.bufs with ibuf := s.bufs.ibuf ++ [row ++ as.map (lumAt s.mem)] } } := by
  induction as generalizing row with
  | nil => simp [sampleRow]
  | cons a as ih =>
    obtain ⟨h1, h2⟩ := ha a List.mem_cons_self
    unfold sampleRow
    rw [if_neg (Nat.not_lt.2 h1), if_neg (by simp [h2]), samplePixel_quiet a s ht,
      land_quiet _ _ (by exact hs), andThen_on]
    rw [ih _ (fun b hb => ha b (List.mem_cons_of_mem _ hb))]
    simp

theorem sample_rows (n : Nat) (s : State) (w : Word) (st : Stage) (r : Nat) (hp : s.phase = .run w st r) :
    ∃ st' r', (List.range n).foldl (fun s y => (fun (y : Nat) (t : State) =>
        ({ t with bufs := { t.bufs with
          ibuf := t.bufs.ibuf ++ [((List.range (workW t)).map fun x => sampleAddr t x y).map (lumAt t.mem)] } } : State))
          y (atRow .sample y s)) s =
      { s with
        bufs := { s.bufs with ibuf := s.bufs.ibuf ++ rows (workW s) n fun x y => lumAt s.mem (sampleAddr s x y) }
        phase := .run w st' r' } := by
  induction n with
  | zero => exact ⟨st, r, by simp [rows, ← hp]⟩
  | succ n ih =>
    obtain ⟨st', r', e⟩ := ih
    refine ⟨.sample, n, ?_⟩
    rw [List.range_succ, List.foldl_append, e]
    simp [rows_succ, rowOf, atRow, workW, sampleAddr, snapScale, snapW, Function.comp_def]

/-- The state as the rows of the SAMPLE stage begin when nothing lands. -/
abbrev startSample (s : State) : State := clearForSample (latchDims (snapWork s) s)

/-- The SAMPLE stage when nothing lands and every read goes through (41_downsampler.md R200). -/
theorem stageSample_quiet (s : State) (w : Word) (st : Stage) (r : Nat) (hq : Quiet s) (hp : s.phase = .run w st r)
    (ht : s.race.touched = [])
    (ha : ∀ x y, x < workW (startSample s) → y < workH (startSample s) →
      sampleAddr s x y + 4 ≤ 4294967296 ∧ refuses s (sampleAddr s x y) 4 .read = false) :
    ∃ st' r', stageSample s = .on
      { startSample s with
        bufs := { s.bufs with
          ibuf := rows (workW (startSample s)) (workH (startSample s)) fun x y => lumAt s.mem (sampleAddr s x y) }
        valid := { Valid.none with ibuf := true }
        phase := .run w st' r' } := by
  obtain ⟨st', r', e⟩ := sample_rows (workH (startSample s)) (startSample s) w st r hp
  refine ⟨st', r', ?_⟩
  unfold stageSample
  rw [land_quiet _ (latchDims (snapWork s) s) hq.1, andThen_on,
    show workH (latchDims (snapWork s) s) = workH (startSample s) from rfl, rowLoop_quiet .sample noWrites _
    (fun y t => { t with bufs := { t.bufs with
      ibuf := t.bufs.ibuf ++ [((List.range (workW t)).map fun x => sampleAddr t x y).map (lumAt t.mem)] } })
    (fun t => ∃ b p, t = { startSample s with bufs := b, phase := p })
    (by rintro t ⟨b, p, rfl⟩; exact hq)
    (by rintro y t ⟨b, p, rfl⟩; exact ⟨b, _, rfl⟩)
    (by rintro y t ⟨b, p, rfl⟩; exact ⟨_, p, rfl⟩)
    _
    (by
      rintro y t hy ⟨b, p, rfl⟩
      have hy' : y < workH (startSample s) := List.mem_range.1 hy
      have hrow := sampleRow_quiet
        ((List.range (workW (startSample s))).map fun x => sampleAddr (startSample s) x y) []
        { startSample s with bufs := b, phase := p } hq.1 ht
        (by
          intro a hm
          obtain ⟨x, hx, rfl⟩ := List.mem_map.1 hm
          exact ha x y (List.mem_range.1 hx) hy')
      simpa [workW, sampleAddr, snapScale, snapW] using hrow)
    _ ⟨(startSample s).bufs, (startSample s).phase, rfl⟩, andThen_on, e]
  simp [sampleAddr, snapScale, snapW]

/-! ### Writes to frame memory -/

/-- Memory after bytes written from an address on. -/
def memBytes : Nat → List Byte → Memory → Memory
  | _, [], m => m
  | a, b :: bs, m => memBytes (a + 1) bs (m.write a b)

/-- Memory after writes, one after another. -/
def memWrites : List PortWrite → Memory → Memory
  | [], m => m
  | w :: ws, m => memWrites ws (memBytes w.addr w.bytes m)

theorem memWrites_append (l l' : List PortWrite) (m : Memory) :
    memWrites (l ++ l') m = memWrites l' (memWrites l m) := by
  induction l generalizing m with
  | nil => rfl
  | cons w l ih => exact ih _

theorem memBytes_wf (a : Nat) (bs : List Byte) (m : Memory) (hm : m.wf = true) (ha : a + bs.length ≤ 4294967296) :
    (memBytes a bs m).wf = true := by
  induction bs generalizing a m with
  | nil => exact hm
  | cons b bs ih =>
    simp only [List.length_cons] at ha
    exact ih (a + 1) _ (write_wf m a b hm (by omega)) (by omega)

/-- Bytes written from `a` on: address `x` holds byte `x - a` of them, and what it held where they do not reach. -/
theorem memBytes_read (a x : Nat) (bs : List Byte) (m : Memory) (hm : m.wf = true)
    (ha : a + bs.length ≤ 4294967296) :
    (memBytes a bs m).read x = if a ≤ x ∧ x < a + bs.length then bs.getD (x - a) 0 else m.read x := by
  induction bs generalizing a m with
  | nil =>
    rw [if_neg (by simp)]
    rfl
  | cons b bs ih =>
    simp only [List.length_cons] at ha
    unfold memBytes
    rw [ih (a + 1) _ (write_wf m a b hm (by omega)) (by omega), read_write m a x b hm]
    simp only [List.length_cons]
    by_cases h1 : x = a
    · subst h1
      simp
    · by_cases h2 : a + 1 ≤ x ∧ x < a + 1 + bs.length
      · rw [if_pos h2, if_pos ⟨by omega, by omega⟩]
        obtain ⟨k, rfl⟩ : ∃ k, x = a + 1 + k := ⟨x - (a + 1), by omega⟩
        have e1 : a + 1 + k - (a + 1) = k := by omega
        have e2 : a + 1 + k - a = k + 1 := by omega
        rw [e1, e2, List.getD_cons_succ]
      · rw [if_neg h2, if_neg h1, if_neg (by omega)]

theorem memWrites_wf (ws : List PortWrite) (m : Memory) (hm : m.wf = true)
    (hw : ∀ w ∈ ws, w.addr + w.bytes.length ≤ 4294967296) : (memWrites ws m).wf = true := by
  induction ws generalizing m with
  | nil => exact hm
  | cons w ws ih =>
    exact ih _ (memBytes_wf _ _ m hm (hw w List.mem_cons_self)) (fun v hv => hw v (List.mem_cons_of_mem _ hv))

/-- An address that no write reaches keeps its byte. -/
theorem memWrites_frame (ws : List PortWrite) (m : Memory) (x : Nat) (hm : m.wf = true)
    (hw : ∀ w ∈ ws, w.addr + w.bytes.length ≤ 4294967296)
    (hx : ∀ w ∈ ws, ¬(w.addr ≤ x ∧ x < w.addr + w.bytes.length)) : (memWrites ws m).read x = m.read x := by
  induction ws generalizing m with
  | nil => rfl
  | cons w ws ih =>
    have h0 := hw w List.mem_cons_self
    rw [memWrites, ih _ (memBytes_wf _ _ m hm h0) (fun v hv => hw v (List.mem_cons_of_mem _ hv))
      (fun v hv => hx v (List.mem_cons_of_mem _ hv)), memBytes_read _ _ _ _ hm h0, if_neg (hx w List.mem_cons_self)]

/-- An address that exactly one write reaches holds that write's byte. -/
theorem memWrites_hit (l l' : List PortWrite) (w : PortWrite) (m : Memory) (x : Nat) (hm : m.wf = true)
    (hw : ∀ v ∈ l ++ w :: l', v.addr + v.bytes.length ≤ 4294967296)
    (hx : ∀ v ∈ l', ¬(v.addr ≤ x ∧ x < v.addr + v.bytes.length)) (h1 : w.addr ≤ x)
    (h2 : x < w.addr + w.bytes.length) :
    (memWrites (l ++ w :: l') m).read x = w.bytes.getD (x - w.addr) 0 := by
  have hl := memWrites_wf l m hm (fun v hv => hw v (List.mem_append_left _ hv))
  have h0 := hw w (by simp)
  rw [memWrites_append, memWrites, memWrites_frame l' _ x (memBytes_wf _ _ _ hl h0)
    (fun v hv => hw v (by simp [hv])) hx, memBytes_read _ _ _ _ hl h0, if_pos ⟨h1, h2⟩]

/-- The record of a race-free command. -/
theorem race_untouched (s : State) (h : s.race.touched = []) : s.race = ⟨[], s.race.wrote⟩ := by
  rw [← h]

/-- Bytes the engine writes where no other agent races with it. -/
theorem writeBytes_quiet (a : Nat) (bs : List Byte) (s : State) (h : s.race.touched = []) :
    ∃ u, writeBytes a bs s = { s with mem := memBytes a bs s.mem, race := ⟨[], u⟩ } := by
  induction bs generalizing a s with
  | nil => exact ⟨s.race.wrote, by rw [← race_untouched s h]; rfl⟩
  | cons b bs ih =>
    unfold writeBytes
    rw [engineWrite_quiet a b s h]
    obtain ⟨u, e⟩ := ih (a + 1)
      { s with mem := s.mem.write a b, race := { s.race with wrote := ⟨a, s.mem.read a, b⟩ :: s.race.wrote } } h
    exact ⟨u, by rw [e]; rfl⟩

/-- Writes that all go through, where no other agent races with them. -/
theorem performWrites_quiet (ws : List PortWrite) (s : State) (hs : s.script = []) (h : s.race.touched = [])
    (hw : ∀ w ∈ ws, w.addr + w.bytes.length ≤ 4294967296 ∧ refuses s w.addr w.bytes.length .write = false) :
    ∃ u, performWrites ws s = .on { s with mem := memWrites ws s.mem, race := ⟨[], u⟩ } := by
  induction ws generalizing s with
  | nil => exact ⟨s.race.wrote, by rw [← race_untouched s h]; rfl⟩
  | cons w ws ih =>
    obtain ⟨h1, h2⟩ := hw w List.mem_cons_self
    unfold performWrites
    rw [if_neg (Nat.not_lt.2 h1), if_neg (by simp [h2])]
    obtain ⟨u, e⟩ := writeBytes_quiet w.addr w.bytes s h
    rw [e, land_quiet _ _ (by exact hs), andThen_on]
    obtain ⟨u', e'⟩ := ih { s with mem := memBytes w.addr w.bytes s.mem, race := ⟨[], u⟩ } hs rfl
      (fun v hv => hw v (List.mem_cons_of_mem _ hv))
    exact ⟨u', by rw [e']; rfl⟩

/-- A state inside a writing stage: what its rows change is memory, the record of races and the row. -/
def writeState (s : State) (m : Memory) (u : List Written) (p : Phase) : State :=
  { s with mem := m, race := ⟨[], u⟩, phase := p }

theorem atRow_writeState (s : State) (m : Memory) (u : List Written) (w : Word) (st stage : Stage) (r row : Nat) :
    atRow stage row (writeState s m u (.run w st r)) = writeState s m u (.run w stage row) := rfl

/-- Rows of writes that all go through, where nothing lands: memory after all of them in order. The writes of a row
are the same wherever the stage's own changes stand. -/
theorem writingRows_quiet (stage : Stage) (n : Nat) (writes : Nat → State → List PortWrite) (s : State) (w : Word)
    (st : Stage) (r : Nat) (hq : Quiet s) (hp : s.phase = .run w st r) (ht : s.race.touched = [])
    (hsame : ∀ y m u p, writes y (writeState s m u p) = writes y s)
    (hw : ∀ y, y < n → ∀ v ∈ writes y s,
      v.addr + v.bytes.length ≤ 4294967296 ∧ refuses s v.addr v.bytes.length .write = false) :
    ∃ u st' r', writingRows stage n writes s =
      .on (writeState s (memWrites ((List.range n).flatMap fun y => writes y s) s.mem) u (.run w st' r')) := by
  have key : ∀ b : List Nat, (∀ y ∈ b, y < n) → ∀ m u st r,
      ∃ u' st' r', rowLoop stage writes (fun y s => performWrites (writes y s) s) b (writeState s m u (.run w st r)) =
        .on (writeState s (memWrites (b.flatMap fun y => writes y s) m) u' (.run w st' r')) := by
    intro b
    induction b with
    | nil =>
      intro _ m u st r
      exact ⟨u, st, r, land_quiet _ (writeState s m u (.run w st r)) hq.1⟩
    | cons y ys ih =>
      intro hb m u st r
      unfold rowLoop
      rw [atRow_writeState, land_quiet _ (writeState s m u (.run w stage y)) hq.1, andThen_on]
      simp only [hsame]
      obtain ⟨u1, e1⟩ := performWrites_quiet (writes y s) (writeState s m u (.run w stage y)) hq.1 rfl
        (hw y (hb y List.mem_cons_self))
      have e1' : performWrites (writes y s) (writeState s m u (.run w stage y)) =
          .on (writeState s (memWrites (writes y s) m) u1 (.run w stage y)) := e1
      rw [e1', andThen_on, land_quiet _ (writeState s _ u1 _) hq.1, andThen_on]
      cases ys with
      | nil => exact ⟨u1, stage, y, by simp⟩
      | cons y' ys =>
        dsimp only
        rw [boundary_quiet (writeState s _ u1 _) hq.2, andThen_on]
        obtain ⟨u2, st2, r2, e2⟩ :=
          ih (fun z hz => hb z (List.mem_cons_of_mem _ hz)) (memWrites (writes y s) m) u1 stage y
        refine ⟨u2, st2, r2, ?_⟩
        rw [e2]
        simp [memWrites_append]
  obtain ⟨u', st', r', e⟩ := key (List.range n) (fun y hy => List.mem_range.1 hy) s.mem s.race.wrote st r
  refine ⟨u', st', r', ?_⟩
  have hs : writeState s s.mem s.race.wrote (.run w st r) = s := by
    unfold writeState
    rw [← race_untouched s ht, ← hp]
  rw [hs] at e
  exact e

end Sys2Proof.Machine
end

