-- ==== Sys2Proof/Machine/Script.lean ====
section
/-! DEFINITION. Host scripts (30_encoding.md R140 to R142): the primitive statements, the accesses they encode, and the
pseudo-instructions. -/

namespace Sys2Proof.Machine

/-- `WR r, v` (R140). -/
def scriptWr (r : Reg) (v : Word) : HostItem := .write (BitVec.ofNat 12 (regOffset r)) 4 v

/-- `RD r` (R140). -/
def scriptRd (r : Reg) : HostItem := .read (BitVec.ofNat 12 (regOffset r)) 4

/-- The byte address of a register in the host's address space (R141): REG_BASE + offset. -/
def regAddress (r : Reg) : Nat := Config.regBase + regOffset r

/-- `<cmd>` (R142): the write of its command word; nothing for an instruction that is no command. -/
def scriptCmd (i : Instr) : List HostItem :=
  match encode i with
  | .cmd w => [scriptWr .cmd w]
  | .style _ => []

/-- `STYLE <mnemonic>` (R142). -/
def scriptStyle (i : Instr) : List HostItem :=
  match encode i with
  | .cmd _ => []
  | .style c => [scriptWr .style (c.setWidth 32)]

/-- `DIM w, h` (R142): (h << 16) | w. -/
def scriptDim (w h : BitVec 16) : HostItem := scriptWr .srcDim (h ++ w)

/-- `STOP k, r, g, b` (R142): (b << 16) | (g << 8) | r. -/
def scriptStop (k : Fin 16) (r g b : Byte) : HostItem := scriptWr (.pal k) ((0#8 ++ b ++ g ++ r : BitVec 32))

/-- `WAITIDLE` (R142). -/
def scriptWaitIdle : HostItem := .waitIdle

/-- `ACK` (R142). -/
def scriptAck : HostItem := scriptWr .status 0x0000000E

/-- `RUN <cmd>` (R142). -/
def scriptRun (i : Instr) : List HostItem := scriptCmd i ++ [scriptWaitIdle]

end Sys2Proof.Machine
end

