-- ==== Sys2Proof/Tests/Slice0.lean ====
section
/-! SUPPORT. Tests: the well-formedness smoke test, the decoding of a written-out word of every row, small tests of
single steps, and for every statement with hypotheses a witness that they can be met together. Expected values are
those of 95_test_vectors.md (named by their id), of the rule named, or worked out by hand from it. -/

namespace Sys2Proof.Machine

-- Kernel evaluations side by side would need more memory than the check allows.
set_option Elab.async false

/-! ### Small states -/

/-- A platform with MAX_WW = MAX_WH = 8, SERP_DAMP = 0.5, the default tables, no refused access and no device. -/
def tPlat : Platform := ⟨8, 8, fHalf, kernelDefault, knollDefault, [], []⟩

/-- The state after reset, on that platform and with a LUT RAM of zeros. -/
def tBase : State := { State.reset with plat := tPlat, lut := ⟨Vector.replicate 256 0, false, ⟨0, 0, 0, 0, false⟩⟩ }

/-- Frame memory with bytes at an address. -/
def tMem (a : Nat) (bytes : List Byte) : Memory :=
  (bytes.zipIdx).foldl (fun m p => m.write (a + p.2) p.1) []

/-- The 2 × 2 source of vector S1 at 0x1000, the destination at 0x3000. -/
def tSource : State :=
  { tBase with
    cfg := { Cfg.reset with srcBase := 0x1000, srcDim := 0x00020002, dstBase := 0x3000 }
    mem := tMem 0x1000 [255, 0, 0, 255, 0, 255, 0, 255, 0, 0, 255, 255, 255, 255, 255, 255] }

/-- Every buffer valid and 2 × 2, scale 1; CBUF is that of vector UP1. -/
def tFull : State :=
  { tSource with
    dims := ⟨0x00020002, 0x00020002, 1⟩
    valid := ⟨true, true, true, true, true⟩
    bufs := ⟨[[76, 149], [29, 255]], [[104, 177], [57, 255]], [[0, 255], [255, 0]], [[0, 255], [255, 64]],
      [[⟨1, 2, 3⟩, ⟨4, 5, 6⟩], [⟨7, 8, 9⟩, ⟨10, 11, 12⟩]]⟩ }

/-- The same with another configuration. -/
def tWith (f : Cfg → Cfg) : State := { tFull with cfg := f tFull.cfg }

/-- DITHER has started on a TBUF, under a configuration, with RNG_STATE 1. -/
def tDither (t : List (List Byte)) (f : Cfg → Cfg) : State :=
  { tBase with
    cfg := f Cfg.reset
    snap := f Cfg.reset
    dims := ⟨mkDim (t.getD 0 []).length t.length, 0, 1⟩
    valid := ⟨true, true, false, false, false⟩
    bufs := { tBase.bufs with tbuf := t }
    phase := .run 0x05 .dither 0 }

/-- `h` rows of `w` elements `v`. -/
def tFlat (w h : Nat) (v : Byte) : List (List Byte) := List.replicate h (List.replicate w v)

/-- The state a result goes on in; the state after reset where it does not. -/
def stateOf : Result → State
  | .next t => t
  | .fault _ => tBase
  | .refused _ => tBase

/-- Whether a result goes on. -/
def goes : Result → Bool
  | .next _ => true
  | .fault _ => false
  | .refused _ => false

theorem eq_next_of_goes {o : Result} (h : goes o = true) : ∃ t, o = .next t := by
  cases o with
  | next t => exact ⟨t, rfl⟩
  | fault r => cases h
  | refused r => cases h

/-- MBUF after a variant. -/
def tMask (i : Instr) (t : List (List Byte)) (f : Cfg → Cfg) : List (List Byte) :=
  (stateOf (exec i (tDither t f))).bufs.mbuf

/-- MBUF after a variant on the 6 × 4 TBUF of 100, 1 for 255. -/
def tOnes (i : Instr) : List (List Nat) := (tMask i (tFlat 6 4 100) id).map (·.map fun v => v.toNat / 255)

/-- STATUS, ERR_CODE and ERR_ADDR after a command. -/
def tReport (i : Instr) (s : State) : List Word :=
  let t := stateOf (exec i s)
  [(regRead .status t).1, (regRead .errCode t).1, (regRead .errAddr t).1]

/-- The bytes of memory from an address on, after a command. -/
def tBytes (i : Instr) (s : State) (a n : Nat) : List Byte :=
  (List.range n).map fun k => (stateOf (exec i s)).mem.read (a + k)

/-! ### Well-formedness: each check refuses an ill-formed term -/

theorem test_wf_illegal_refuses_legal_words :
    (Instr.illegalCmd 0x00).wellFormed = false ∧ (Instr.illegalCmd 0x08).wellFormed = false
      ∧ (Instr.illegalCmd 0x09).wellFormed = false ∧ (Instr.illegalCmd 0x49).wellFormed = false := by decide

theorem test_wf_illegal_takes_each_clause :
    (Instr.illegalCmd 0x0A).wellFormed = true ∧ (Instr.illegalCmd 0x80).wellFormed = true
      ∧ (Instr.illegalCmd 0x11).wellFormed = true ∧ (Instr.illegalCmd 0x59).wellFormed = true := by decide

theorem test_wf_passthrough_refuses_assigned :
    (Instr.passthrough 0x10).wellFormed = false ∧ (Instr.passthrough 0x17).wellFormed = false
      ∧ (Instr.passthrough 0x52).wellFormed = false ∧ (Instr.passthrough 0x80).wellFormed = false := by decide

theorem test_wf_passthrough_takes_unassigned :
    (Instr.passthrough 0x0F).wellFormed = true ∧ (Instr.passthrough 0x18).wellFormed = true
      ∧ (Instr.passthrough 0x53).wellFormed = true ∧ (Instr.passthrough 0xFF).wellFormed = true := by decide

/-! ### Decoding: the words of R121 and R122 written out as RSV, SEL, OP, the codes of R130 as two hex digits -/

theorem test_decode_stage_commands :
    decode (.cmd (0#25 ++ 0b000#3 ++ 0b0000#4)) = .nop ∧ decode (.cmd (0#25 ++ 0b000#3 ++ 0b0001#4)) = .runFrame
      ∧ decode (.cmd (0#25 ++ 0b000#3 ++ 0b0010#4)) = .buildLut ∧ decode (.cmd (0#25 ++ 0b000#3 ++ 0b0011#4)) = .sample
      ∧ decode (.cmd (0#25 ++ 0b000#3 ++ 0b0100#4)) = .tonemap ∧ decode (.cmd (0#25 ++ 0b000#3 ++ 0b0101#4)) = .dither
      ∧ decode (.cmd (0#25 ++ 0b000#3 ++ 0b0110#4)) = .depth ∧ decode (.cmd (0#25 ++ 0b000#3 ++ 0b0111#4)) = .palette
      ∧ decode (.cmd (0#25 ++ 0b000#3 ++ 0b1000#4)) = .upscale := by decide

theorem test_decode_dumps :
    decode (.cmd (0#25 ++ 0b000#3 ++ 0b1001#4)) = .dumpIbuf ∧ decode (.cmd (0#25 ++ 0b001#3 ++ 0b1001#4)) = .dumpTbuf
      ∧ decode (.cmd (0#25 ++ 0b010#3 ++ 0b1001#4)) = .dumpMbuf
      ∧ decode (.cmd (0#25 ++ 0b011#3 ++ 0b1001#4)) = .dumpDbuf
      ∧ decode (.cmd (0#25 ++ 0b100#3 ++ 0b1001#4)) = .dumpCbuf := by decide

theorem test_decode_illegal :
    decode (.cmd (0#25 ++ 0b000#3 ++ 0b1010#4)) = .illegalCmd 0x0A
      ∧ decode (.cmd (0#25 ++ 0b101#3 ++ 0b1001#4)) = .illegalCmd 0x59
      ∧ decode (.cmd (0#25 ++ 0b001#3 ++ 0b0001#4)) = .illegalCmd 0x11
      ∧ decode (.cmd (1#25 ++ 0b000#3 ++ 0b0000#4)) = .illegalCmd 0x80 := by decide

theorem test_decode_kernels :
    decode (.style 0x10) = .edFloydSteinberg ∧ decode (.style 0x11) = .edAtkinson ∧ decode (.style 0x12) = .edJjn
      ∧ decode (.style 0x13) = .edStucki ∧ decode (.style 0x14) = .edBurkes ∧ decode (.style 0x15) = .edSierra
      ∧ decode (.style 0x16) = .edSierra2 ∧ decode (.style 0x17) = .edSierraLite := by decide

theorem test_decode_ordered_and_lines :
    decode (.style 0x20) = .ordBayer ∧ decode (.style 0x21) = .ordKnoll ∧ decode (.style 0x30) = .linesH
      ∧ decode (.style 0x31) = .linesV ∧ decode (.style 0x32) = .linesD := by decide

theorem test_decode_noise_and_waves :
    decode (.style 0x40) = .noiseBlue ∧ decode (.style 0x41) = .noiseWhite ∧ decode (.style 0x42) = .noiseStipple
      ∧ decode (.style 0x43) = .noiseVoronoi ∧ decode (.style 0x50) = .waveSinX ∧ decode (.style 0x51) = .waveSinY
      ∧ decode (.style 0x52) = .waveSinR ∧ decode (.style 0x54) = .waveSqrX ∧ decode (.style 0x55) = .waveSqrY
      ∧ decode (.style 0x56) = .waveSqrR := by decide

theorem test_decode_patterns_and_the_rest :
    decode (.style 0x60) = .patChecker ∧ decode (.style 0x61) = .patGrid ∧ decode (.style 0x62) = .patRandom
      ∧ decode (.style 0x63) = .patGradient ∧ decode (.style 0x70) = .vcOstromoukhov
      ∧ decode (.style 0x80) = .sfcRiemersma ∧ decode (.style 0x53) = .passthrough 0x53 := by decide

theorem test_table_words :
    decodeTableWord 32 0x29 = some .dumpMbuf ∧ decodeTableWord 8 0x29 = some (.passthrough 0x29)
      ∧ decodeTableWord 16 0x29 = none ∧ decodeTableWord 8 256 = none := by decide

theorem test_fetch_word_runs :
    fetch (tBase.withFetchWord 32 0x49) = some (.cmd 0x49) ∧ fetch (tBase.withFetchWord 8 0x49) = some (.style 0x49) := by
  decide

/-! ### Arithmetic: the literals of the rules, and each operation (00_scope.md R17, R18) -/

theorem test_float_literals :
    f0299 = fOfRat 299 1000 ∧ f0587 = fOfRat 587 1000 ∧ f0114 = fOfRat 114 1000 ∧ fHashX = fOfRat 129898 10000
      ∧ fHashY = fOfRat 78233 1000 ∧ fHashScale = fOfRat 437585453 10000 ∧ f127h = fOfRat 255 2 ∧ f2p32 = fOfNat 4294967296
      := by decide +kernel

theorem test_float_halves :
    f0 = fOfNat 0 ∧ f1 = fOfNat 1 ∧ f2 = fOfNat 2 ∧ f50 = fOfNat 50 ∧ f127 = fOfNat 127 ∧ f128 = fOfNat 128
      ∧ f255 = fOfNat 255 ∧ f256 = fOfNat 256 ∧ fHalf = fOfRat 1 2 ∧ fMinus1 = fOfInt (-1) := by decide +kernel

/-- 0.1 + 0.2, 1 ÷ 3, the root of 2 and -7.5 mod 2, as IEEE 754 has them. -/
theorem test_float_operations :
    fAdd (fOfRat 1 10) (fOfRat 2 10) = 0x3FD3333333333334 ∧ fDiv f1 (fOfNat 3) = 0x3FD5555555555555
      ∧ fSqrt f2 = 0x3FF6A09E667F3BCD ∧ fMod (fSub f0 (fOfRat 15 2)) f2 = 0xBFF8000000000000
      ∧ fMul (fOfRat 3 2) fMinus1 = 0xBFF8000000000000 := by decide +kernel

/-- R18: halves go to the even neighbour, and values outside 0 .. 255 are clamped. -/
theorem test_rne_u8 :
    [fOfRat 1 2, fOfRat 3 2, fOfRat 5 2, fOfRat 509 2, fOfNat 300, fOfInt (-3)].map rneU8 = [0, 2, 2, 254, 255, 0] := by
  decide +kernel

/-! ### The commands (CM, S, TM, DE, PL, UP, ER of 95_test_vectors.md) -/

/-- CM8, CM9. -/
theorem test_nop :
    tReport .nop tBase = [0x2, 0, 0]
      ∧ tReport .nop { tBase with status := { tBase.status with done := true, preempt := true } } = [0xA, 0, 0] := by
  decide +kernel

/-- P3 steps 2 and 4. -/
theorem test_illegal_cmd :
    tReport (.illegalCmd 0x0A) tBase = [0x4, 0x00000A01, 0] ∧ tReport (.illegalCmd 0x59) tBase = [0x4, 0x00000901, 0] := by
  decide +kernel

/-- S1. -/
theorem test_sample :
    (stateOf (exec .sample tSource)).bufs.ibuf = [[76, 149], [29, 255]]
      ∧ (stateOf (exec .sample tSource)).dims = ⟨0x00020002, 0x00020002, 1⟩
      ∧ (regRead .bufValid (stateOf (exec .sample tSource))).1 = 0x01 := by decide +kernel

/-- S4, S5, S8, S10. -/
theorem test_sample_dimensions_and_checks :
    (workLen 10 4, workLen 3 4, workLen 5 5) = (2, 1, 1)
      ∧ tReport .sample (tWith ({ · with scale := 0 })) = [0x4, 0x00000303, 0]
      ∧ tReport .sample (tWith ({ · with srcBase := 0xFFFFFFF0, srcDim := 0x00020003 })) = [0x4, 0x00000305, 0xFFFFFFF0]
      := by decide +kernel

/-- TM1: LUT_WIN[50] after a build from the neutral tuple. -/
theorem test_build_lut :
    lutWinWord (stateOf (exec .buildLut tBase)).lut.ram 50 = 0xCBCAC9C8
      ∧ (stateOf (exec .buildLut tBase)).lut.built = true := by
  refine ⟨?_, by rfl⟩
  show lutWinWord (lutTable Tone.reset) 50 = 0xCBCAC9C8
  unfold lutTable
  decide +kernel

/-- TM7, TM13. -/
theorem test_build_lut_pole :
    tReport .buildLut (tWith fun c => { c with tone := { c.tone with contrast := 259 } }) = [0x4, 0x00000206, 0]
      ∧ tReport .tonemap (tWith fun c => { c with tone := { c.tone with contrast := 300 } }) = [0x4, 0x00000406, 0] := by
  decide +kernel

/-- TM10, with the LUT already built: its entries at the four levels of IBUF. -/
theorem test_tonemap :
    [76, 149, 29, 255].map (lutEntry ⟨0, 50, 50, 100, false⟩) = [104, 177, 57, 255]
      ∧ (stateOf (exec .tonemap
          { tFull with lut := ⟨Vector.ofFn fun i => BitVec.ofNat 8 (i.val + 28), true, Tone.reset⟩ })).bufs.tbuf
        = [[104, 177], [57, 27]] := by decide +kernel

/-- TM12. -/
theorem test_tonemap_seq : tReport .tonemap tSource = [0x4, 0x00000402, 0] := by decide +kernel

/-- The start of a dither stage with an unassigned code and with a fallback MSIZE (R251), and RNG_STATE's reload. -/
theorem test_dither_start :
    (regRead .status (stateOf (exec .dither (tWith ({ · with style := 0xFF, rngSeed := 9 }))))).1 = 0x21
      ∧ (stateOf (exec .dither (tWith ({ · with style := 0xFF, rngSeed := 9 })))).rngState = 9
      ∧ (regRead .status (stateOf (exec .dither (tWith ({ · with style := 0x20, msize := 3 }))))).1 = 0x41 := by
  decide +kernel

/-- R340 with offset 1: the dark element at (1, 1) blanks (0, 1), that at (0, 0) blanks nothing. -/
theorem test_depth :
    (stateOf (exec .depth (tWith ({ · with depth := 1 })))).bufs.dbuf = [[0, 255], [0, 0]]
      ∧ (stateOf (exec .depth tFull)).bufs.dbuf = [[0, 255], [255, 0]] := by decide +kernel

/-- PL1, and PL6. -/
theorem test_palette :
    (stateOf (exec .palette tFull)).bufs.cbuf
        = [[⟨0, 0, 0⟩, ⟨255, 255, 255⟩], [⟨255, 255, 255⟩, ⟨64, 64, 64⟩]]
      ∧ tReport .palette (tWith ({ · with palCount := 17 })) = [0x4, 0x00000708, 0] := by decide +kernel

/-- UP1, UP6. -/
theorem test_upscale :
    tBytes .upscale tFull 0x3000 16 = [1, 2, 3, 255, 4, 5, 6, 255, 7, 8, 9, 255, 10, 11, 12, 255]
      ∧ tReport .upscale (tWith ({ · with dstBase := 0xFFFFFFF4 })) = [0x4, 0x00000805, 0xFFFFFFF4] := by decide +kernel

/-- UP3: w = 5, h = 3, s = 2. The last column and the last row are zero. -/
theorem test_upscale_partial_tiles :
    tBytes .upscale { tFull with dims := ⟨0x00010002, 0x00030005, 2⟩ } 0x3000 60
      = [1, 2, 3, 255, 1, 2, 3, 255, 4, 5, 6, 255, 4, 5, 6, 255, 0, 0, 0, 0] ++
        [1, 2, 3, 255, 1, 2, 3, 255, 4, 5, 6, 255, 4, 5, 6, 255, 0, 0, 0, 0] ++ List.replicate 20 0 := by decide +kernel

/-- CM10, CM11. -/
theorem test_dumps :
    tBytes .dumpIbuf tFull 0x3000 4 = [76, 149, 29, 255] ∧ tBytes .dumpTbuf tFull 0x3000 4 = [104, 177, 57, 255]
      ∧ tBytes .dumpMbuf tFull 0x3000 4 = [0, 255, 255, 0] ∧ tBytes .dumpDbuf tFull 0x3000 4 = [0, 255, 255, 64]
      ∧ tBytes .dumpCbuf tFull 0x3000 12 = [1, 2, 3, 4, 5, 6, 7, 8, 9, 10, 11, 12] := by decide +kernel

/-- CM13, CM14: the end of the address space. -/
theorem test_dump_edge :
    tBytes .dumpIbuf (tWith ({ · with dstBase := 0xFFFFFFFC })) 0xFFFFFFFC 4 = [76, 149, 29, 255]
      ∧ tReport .dumpCbuf (tWith ({ · with dstBase := 0xFFFFFFFC })) = [0x4, 0x00000905, 0xFFFFFFFC] := by decide +kernel

/-- ER1, ER2: the precheck order, and the zero-area test before it. -/
theorem test_run_frame_checks :
    tReport .runFrame (tWith ({ · with scale := 0, palCount := 0 })) = [0x4, 0x00000103, 0]
      ∧ tReport .runFrame (tWith ({ · with srcDim := 0x00020000, scale := 0, pscale := 0, palCount := 0 })) = [0x2, 0, 0] := by
  decide +kernel

/-- P1's trace on the 2 × 2 source: the frame stops at the dispatch of its dither variant. -/
theorem test_run_frame_head :
    (stateOf (exec .runFrame tSource)).phase = .run 0x01 .dither 0
      ∧ (stateOf (exec .runFrame tSource)).bufs.ibuf = [[76, 149], [29, 255]] := by decide +kernel

/-! ### The dither variants (ED and TH of 95_test_vectors.md) -/

/-- ED1, ED2. -/
theorem test_floyd_steinberg :
    tMask .edFloydSteinberg (tFlat 2 2 100) id = [[0, 255], [0, 0]]
      ∧ tMask .edFloydSteinberg (tFlat 2 2 100) ({ · with bleed := 0x0080 }) = [[0, 0], [255, 0]] := by decide +kernel

/-- ED6 and the examples of R274 to R276, 1 for 255. -/
theorem test_atkinson_jjn_stucki :
    tOnes .edAtkinson = [[0, 0, 0, 1, 0, 0], [0, 1, 0, 0, 1, 0], [0, 1, 1, 0, 0, 1], [0, 0, 0, 1, 0, 0]]
      ∧ tOnes .edJjn = [[0, 0, 1, 0, 0, 0], [0, 1, 0, 1, 0, 1], [0, 1, 0, 0, 1, 0], [0, 1, 0, 0, 1, 0]]
      ∧ tOnes .edStucki = [[0, 0, 1, 0, 0, 1], [0, 1, 0, 0, 1, 0], [1, 0, 1, 0, 0, 1], [0, 0, 1, 0, 1, 0]] := by
  decide +kernel

/-- ED6 and the examples of R277 to R280. -/
theorem test_burkes_and_sierras :
    tOnes .edBurkes = [[0, 0, 1, 0, 0, 1], [1, 0, 0, 1, 0, 0], [0, 1, 0, 1, 0, 1], [0, 0, 1, 0, 0, 0]]
      ∧ tOnes .edSierra = [[0, 0, 1, 0, 0, 0], [0, 1, 0, 1, 0, 1], [1, 0, 0, 1, 0, 0], [0, 0, 1, 0, 1, 0]]
      ∧ tOnes .edSierra2 = [[0, 0, 1, 0, 0, 1], [1, 0, 0, 1, 0, 0], [0, 1, 0, 1, 0, 1], [0, 0, 1, 0, 0, 1]]
      ∧ tOnes .edSierraLite = [[0, 1, 0, 0, 1, 0], [0, 1, 0, 1, 0, 1], [0, 1, 0, 0, 1, 0], [0, 0, 1, 0, 0, 1]] := by
  decide +kernel

/-- ED10, ED11. -/
theorem test_ostromoukhov :
    tMask .vcOstromoukhov [[0, 64, 128, 192], [32, 96, 160, 224], [255, 200, 100, 50]] id
        = [[0, 0, 255, 255], [0, 0, 0, 255], [255, 255, 255, 0]]
      ∧ tMask .vcOstromoukhov (tFlat 2 2 100) id = [[0, 255], [0, 0]] := by decide +kernel

/-- ED12, ED13. -/
theorem test_riemersma :
    tMask .sfcRiemersma (tFlat 4 2 100) id = [[0, 255, 0, 0], [255, 0, 0, 255]]
      ∧ tMask .sfcRiemersma [[200, 50, 50]] id = [[255, 0, 0]] := by decide +kernel

/-- TH1, TH2. -/
theorem test_bayer :
    tMask .ordBayer (tFlat 2 2 100) ({ · with msize := 2 }) = [[255, 0], [0, 255]]
      ∧ tMask .ordBayer (tFlat 2 2 100) ({ · with msize := 3 }) = [[0, 0], [0, 0]] := by decide +kernel

/-- TH7. -/
theorem test_knoll :
    tMask .ordKnoll (tFlat 4 4 100) id = [[0, 255, 255, 0], [255, 255, 255, 0], [0, 255, 255, 0], [0, 0, 0, 0]] := by
  decide +kernel

/-- TH9 to TH13. -/
theorem test_lines :
    tMask .linesH (tFlat 2 4 128) id = [[255, 255], [255, 255], [0, 0], [0, 0]]
      ∧ tMask .linesH (tFlat 3 3 128) ({ · with pscale := 3 }) = [[255, 255, 255], [255, 255, 255], [0, 0, 0]]
      ∧ tMask .linesV (tFlat 4 1 128) id = [[255, 255, 0, 0]]
      ∧ tMask .linesD (tFlat 2 2 128) ({ · with pscale := 2 }) = [[255, 0], [0, 255]] := by decide +kernel

/-- TH17, TH18, TH20, TH30. -/
theorem test_random_styles :
    tMask .noiseWhite [[10, 10]] id = [[255, 255]] ∧ tMask .noiseStipple [[128, 128, 128]] id = [[255, 255, 0]]
      ∧ tMask .noiseVoronoi [[128, 128, 128]] id = [[255, 255, 0]]
      ∧ tMask .patRandom [[150, 150, 150]] id = [[255, 255, 0]] := by decide +kernel

/-- TH31: three draws leave RNG_STATE at 0x9DCCA8C5. -/
theorem test_random_state :
    (stateOf (exec .patRandom (tDither [[0, 0, 0]] id))).rngState = 0x9DCCA8C5
      ∧ (stateOf (exec .patChecker (tDither [[0, 0, 0]] id))).rngState = 1 := by decide +kernel

/-- TH27, TH29, TH32. -/
theorem test_patterns :
    tMask .patChecker (tFlat 2 2 150) id = [[255, 0], [0, 255]]
      ∧ tMask .patGrid (tFlat 3 3 150) ({ · with pscale := 2 }) = [[255, 255, 255], [255, 0, 255], [255, 255, 255]]
      ∧ tMask .patGradient (tFlat 4 4 150) ({ · with pscale := 2 })
        = [[255, 255, 255, 255], [255, 255, 0, 0], [255, 0, 255, 0], [255, 0, 0, 255]] := by decide +kernel

/-- X8. -/
theorem test_passthrough : tMask (.passthrough 0xFF) [[76, 149], [29, 255]] id = [[76, 149], [29, 255]] := by decide +kernel

/-- R314 and R309 where the sine is given: TH21 and TH24 at x = 1 (a quarter of the period, sine 1), TH14 at x = 0. -/
theorem test_thresholds_of_a_sine :
    waveThr (fun _ => f1) .sine 4 (waveDist .x 4 4 1 0) = f255 ∧ waveThr (fun _ => f1) .square 4 (waveDist .y 4 4 0 1) = f255
      ∧ waveThr (fun _ => fMinus1) .square 4 f1 = f0 ∧ waveDist .radial 4 4 2 2 = f0 ∧ waveDist .radial 6 8 0 0 = fOfNat 5
      ∧ hashThr (fun _ => f0) 0 0 = f0 ∧ hashThr (fun _ => fMinus1) 0 0 = fMod fHashScale f256 := by decide +kernel

/-! ### The register port and the world outside (ER of 95_test_vectors.md) -/

/-- ER7, ER8, ER9. -/
theorem test_reads_after_reset :
    [Reg.id, .version, .caps1, .style, .bleed, .pal 1, .cmd].map (fun r => (regRead r tBase).1)
        = [0x544C5554, 0x00010007, 0x10, 0x10, 0x100, 0x00FFFFFF, 0]
      ∧ (portRead 0x038 4 tBase).portLog = [.data 0] ∧ (portRead 0x080 4 tBase).portLog = [.data 0] := by decide +kernel

/-- ER6, TM9, PL7, PL8. -/
theorem test_writes :
    (regRead .status (portWrite 0x014 4 0xFFFFFFFF { tBase with status := ⟨true, true, true, false, true, false⟩ })).1 = 0x20
      ∧ (regRead .contrast (portWrite 0x050 4 0x00010000 tBase)).1 = 0
      ∧ (regRead .palCount (portWrite 0x07C 4 0x00000110 tBase)).1 = 0x10
      ∧ (regRead (.pal 3) (portWrite 0x10C 4 0xAB123456 tBase)).1 = 0x00123456 := by decide +kernel

/-- ER3, ER4. -/
theorem test_irq :
    irq { tBase with status := { tBase.status with done := true }, irqEn := ⟨true, false, false⟩ } = true
      ∧ irq (portWrite 0x014 4 0x2
          { tBase with status := { tBase.status with done := true }, irqEn := ⟨true, false, false⟩ }) = false
      ∧ irq (portWrite 0x018 4 0x2 { tBase with status := { tBase.status with err := true } }) = true := by decide +kernel

/-- UP8: the pixels before the refused one are written. -/
theorem test_bus_error :
    let s := { tFull with plat := { tPlat with busRules := [⟨⟨0x3008, 4⟩, 4, .write⟩] } }
    tReport .upscale s = [0x4, 0x00000809, 0x3008] ∧ tBytes .upscale s 0x3000 12 = [1, 2, 3, 255, 4, 5, 6, 255, 0, 0, 0, 0]
      := by decide +kernel

/-- R98: a launch over a device region is refused; an empty region (R374) meets none, wherever DST_BASE points. -/
theorem test_device_region :
    goes (exec .upscale { tFull with plat := { tPlat with devices := [⟨0x300F, 1⟩] } }) = false
      ∧ goes (exec .upscale { tFull with plat := { tPlat with devices := [⟨0x3010, 1⟩] } }) = true
      ∧ goes (exec .upscale { tFull with dims := ⟨0, 0, 1⟩, plat := { tPlat with devices := [⟨0x2000, 0x2000⟩] } }) = true
      ∧ goes (exec .dumpCbuf { tFull with dims := ⟨0, 0, 1⟩, plat := { tPlat with devices := [⟨0x2000, 0x2000⟩] } }) = true := by
  decide +kernel

/-- R103, R106: a byte of a row that ends in BUS is read while BUSY as its old value or the command's, a draw; before its
write only as its old value. -/
theorem test_read_in_a_row :
    let s : State := { tFull with dims := ⟨0x00010002, 0x00010002, 1⟩, plat := { tPlat with busRules := [⟨⟨0x3004, 4⟩, 4, .write⟩] } }
    (stateOf (exec .upscale { s with script := [.pass, .pass, .memRead 0x3000] })).free = s.free + 1
      ∧ (stateOf (exec .upscale { s with script := [.pass, .pass, .memRead 0x3004] })).portLog = [.byte 0]
      ∧ (stateOf (exec .upscale s)).status.err = true := by decide +kernel

/-- R225, R461: BUF_VALID read between TONEMAP's build and its valid bits: LUT_V and TBUF_V are both 1. -/
theorem test_read_after_build :
    (stateOf (exec .tonemap { tFull with script := [.pass, .read 0x028 4] })).portLog = [.data 0x3F]
      ∧ (stateOf (exec .tonemap { tFull with script := [.read 0x028 4] })).portLog = [.data 0x1F]
      ∧ (stateOf (exec .tonemap { tFull with script := [.pass, .pass, .read 0x028 4] })).portLog = [.data 0x21] := by
  decide +kernel

/-- R163, R461: with WORK_DIM = 0, BUF_VALID read between the clearing and the setting of a stage's valid bits. -/
theorem test_read_without_rows :
    let s : State := { tFull with dims := ⟨0, 0, 1⟩ }
    (stateOf (exec .tonemap { s with script := [.pass, .pass, .read 0x028 4] })).portLog = [.data 0x21]
      ∧ (stateOf (exec .depth { s with script := [.pass, .read 0x028 4] })).portLog = [.data 0x07]
      ∧ (stateOf (exec .palette { s with script := [.pass, .read 0x028 4] })).portLog = [.data 0x0F] := by decide +kernel

/-- R201, R163: the dimensions are latched before the valid bits are cleared. -/
theorem test_read_after_latch :
    (stateOf (exec .sample { tFull with script := [.pass, .read 0x028 4] })).portLog = [.data 0x1F]
      ∧ (stateOf (exec .sample { tFull with script := [.pass, .pass, .read 0x028 4] })).portLog = [.data 0] := by
  decide +kernel

/-- R165, R412: STATUS read between the updates of an ending. -/
theorem test_read_in_an_ending :
    (stateOf (exec .nop { tBase with script := [.pass, .pass, .read 0x014 4] })).portLog = [.data 0x3]
      ∧ (stateOf (exec (.illegalCmd 0x0A) { tBase with
          script := [.pass, .read 0x01C 4, .read 0x014 4, .pass, .pass, .read 0x014 4] })).portLog
        = [.data 0x5, .data 0x1, .data 0x00000A01] := by decide +kernel

/-- R169: STATUS read before and after the pending word is taken, with DONE of the command before still 1; a word
written then waits behind the one being accepted. -/
theorem test_read_before_the_pending_word :
    let t := stateOf (exec .nop { tBase with script :=
      [.write 0x010 4 3, .pass, .pass, .read 0x014 4, .pass, .read 0x014 4, .write 0x010 4 6] })
    t.portLog = [.data 0x3, .data 0x13] ∧ t.phase = .fetch 3 ∧ t.pendCmd = 6 ∧ t.status.pending = true := by decide +kernel

/-- R142 on P2's last statements: DIM, STOP and the command words. -/
theorem test_script :
    scriptDim 8 2 = .write 0x044 4 0x00020008 ∧ scriptStop 1 200 100 50 = .write 0x104 4 0x003264C8
      ∧ scriptRun .dumpCbuf = [.write 0x010 4 0x49, .waitIdle] ∧ scriptStyle .ordBayer = [.write 0x064 4 0x20] := by
  decide +kernel

/-- R160 and R167: a CMD write runs at once when IDLE, and is pending when it lands on a running command. -/
theorem test_cmd_write :
    (regRead .status (stateOf (step { tBase with script := [.write 0x010 4 0x00] }))).1 = 0x2
      ∧ (stateOf (step { tDither (tFlat 2 2 0) id with script := [.write 0x010 4 0x00] })).phase = .fetch 0x00
      ∧ (stateOf (step { tDither (tFlat 2 2 0) id with script := [.write 0x010 4 0x00] })).status.preempt = true := by
  decide +kernel

/-! ### Witnesses: the hypotheses of each statement, met together -/

theorem test_witness_decode_encode : (Instr.illegalCmd 0x59).wellFormed = true ∧ Instr.dumpCbuf.wellFormed = true := by
  decide

/-- Of IllegalWords; its four clauses at the first word each takes and the last it leaves. -/
theorem test_witness_illegal_words :
    tBase.script = [] ∧ decode (.cmd 0x09) ≠ .illegalCmd 0x09 ∧ decode (.cmd 0x0A) = .illegalCmd 0x0A
      ∧ decode (.cmd 0x49) ≠ .illegalCmd 0x49 ∧ decode (.cmd 0x59) = .illegalCmd 0x59
      ∧ decode (.cmd 0x10) = .illegalCmd 0x10 ∧ decode (.cmd 0x80) = .illegalCmd 0x80 := by decide

/-- Of both clauses of UnassignedStyles; its ranges at the codes beside each of them. -/
theorem test_witness_unassigned_styles :
    (let s := tWith ({ · with style := 0x53 }); Quiet s ∧ s.cfg.style = 0x53 ∧ s.valid.tbuf = true ∧ s.cfg.pscale ≠ 0)
      ∧ ({ tFull with snap := { Cfg.reset with style := 0x53 } } : State).snap.style = 0x53
      ∧ ([0x0F, 0x18, 0x1F, 0x22, 0x2F, 0x33, 0x3F, 0x44, 0x4F, 0x53, 0x57, 0x5F, 0x64, 0x6F, 0x71, 0x7F, 0x81, 0xFF]
          : List Byte).all (fun c => decide (decode (.style c) = .passthrough c)) = true
      ∧ ([0x10, 0x17, 0x20, 0x21, 0x30, 0x32, 0x40, 0x43, 0x50, 0x52, 0x54, 0x56, 0x60, 0x63, 0x70, 0x80]
          : List Byte).all (fun c => decide (decode (.style c) ≠ .passthrough c)) = true := by decide

/-- Of each clause of StepRunsDecoded. -/
theorem test_witness_step_runs_decoded :
    ({ tBase with phase := .fetch 0x49 } : State).phase = .fetch 0x49
      ∧ (tDither [] id).phase = .run 0x05 .dither 0
      ∧ ({ tFull with phase := .run 0x01 .depth 0 } : State).phase = .run 0x01 .depth 0 ∧ Stage.depth ≠ .dither
      ∧ 0xFFFFFFFF < 4294967296 ∧ 0xFF < 256 := by decide

/-- Of each clause of CommandFromCmdWrite. -/
theorem test_witness_command_from_cmd_write :
    (let s := { tBase with script := [.write 0x010 4 0x59] };
      s.phase = .idle ∧ s.inReset = false ∧ s.script = .write 0x010 4 0x59 :: [])
      ∧ (busy (tDither [] id) = true ∧ (tDither [] id).inReset = false)
      ∧ ∃ t, step { tBase with script := [.write 0x010 2 0x59] } = .next t :=
  ⟨by decide, by decide, eq_next_of_goes (by decide +kernel)⟩

/-- Of PrecheckOrder: a row of the table for every error. -/
theorem test_witness_precheck_order :
    NotMidFrame tFull ∧ tFull.script = [] ∧ isCommand .palette = true ∧ tableError .palette tFull = none
      ∧ tableError (.illegalCmd 0x0A) tFull = some (.illegalCmd, 0)
      ∧ tableError .tonemap tSource = some (.seq, 0)
      ∧ tableError .sample (tWith ({ · with scale := 0 })) = some (.cfgScale, 0)
      ∧ tableError .sample (tWith ({ · with srcDim := 0x00010009 })) = some (.cfgDim, 0)
      ∧ tableError .upscale (tWith ({ · with dstBase := 0xFFFFFFF4 })) = some (.cfgRange, 0xFFFFFFF4)
      ∧ tableError .buildLut (tWith fun c => { c with tone := { c.tone with contrast := 259 } }) = some (.cfgContrast, 0)
      ∧ tableError .dither (tWith ({ · with pscale := 0 })) = some (.cfgPscale, 0)
      ∧ tableError .palette (tWith ({ · with palCount := 17 })) = some (.cfgPalette, 0) := by
  refine ⟨fun _ _ h => ?_, ?_⟩
  · exact Phase.noConfusion h
  · decide +kernel

/-- The clauses of PrecheckOrder's table at the last values that pass. -/
theorem test_witness_precheck_passes :
    tableError .sample (tWith ({ · with srcDim := 0x00080008 })) = none
      ∧ tableError .sample (tWith ({ · with srcBase := 0xFFFFFFF0 })) = none
      ∧ tableError .upscale (tWith ({ · with dstBase := 0xFFFFFFF0 })) = none
      ∧ tableError .buildLut (tWith fun c => { c with tone := { c.tone with contrast := 258 } }) = none
      ∧ tableError .palette (tWith ({ · with palCount := 16 })) = none
      ∧ tableError .dumpCbuf (tWith ({ · with dstBase := 0xFFFFFFF4 })) = none := by decide +kernel

/-- Of NopOnlyCompletes, BuildLutBuilds (at the last contrast it takes), DitherStarts and CommandEnds. -/
theorem test_witness_commands :
    (let s := tWith fun c => { c with tone := { c.tone with contrast := 258 } };
      s.script = [] ∧ Quiet s ∧ s.cfg.tone.contrast.toInt < 259 ∧ s.valid.tbuf = true ∧ s.cfg.pscale ≠ 0) := by decide

/-- Of SampleFillsIbuf. -/
theorem test_witness_sample : Quiet tSource ∧ SourceFits tSource ∧ SourceReadable tSource := by decide +kernel

/-- Of both cases of ZeroAreaCompletes. -/
theorem test_witness_zero_area :
    (let s := tWith ({ · with srcDim := 0x00020000 });
      s.script = [] ∧ cfgW s = 0 ∧ cfgH s = 2 ∧ NotMidFrame s)
      ∧ (let s := tWith ({ · with srcDim := 0x00000005 });
        s.script = [] ∧ cfgW s = 5 ∧ cfgH s = 0 ∧ NotMidFrame s) :=
  ⟨⟨rfl, by decide, by decide, fun _ _ h => Phase.noConfusion h⟩,
    ⟨rfl, by decide, by decide, fun _ _ h => Phase.noConfusion h⟩⟩

/-- Of TonemapMapsIbuf: the LUT to be built, and the LUT there already under a contrast that could not be built. -/
theorem test_witness_tonemap :
    (Quiet tFull ∧ tFull.valid.ibuf = true ∧ ¬lutFits tFull ∧ ¬pole tFull)
      ∧ (let k : Tone := ⟨259, 50, 50, 128, false⟩;
        let s := { tWith ({ · with tone := k }) with lut := ⟨Vector.replicate 256 7, true, k⟩ };
        Quiet s ∧ s.valid.ibuf = true ∧ lutFits s ∧ pole s) := by decide +kernel

/-- Of DepthShadows, and of PaletteInterpolates at both ends of PAL_COUNT. -/
theorem test_witness_depth_palette :
    Quiet tFull ∧ tFull.valid.mbuf = true ∧ tFull.valid.dbuf = true
      ∧ (let s := tWith ({ · with palCount := 1 }); Quiet s ∧ 1 ≤ s.cfg.palCount.toNat ∧ s.cfg.palCount.toNat ≤ 16)
      ∧ (let s := tWith ({ · with palCount := 16 }); Quiet s ∧ 1 ≤ s.cfg.palCount.toNat ∧ s.cfg.palCount.toNat ≤ 16) := by
  decide +kernel

/-- Of UpscaleWritesPixels, and of every clause of DumpWritesBuffer; the destination may end at the last address. -/
theorem test_witness_upscale_dump :
    (let s := tWith ({ · with dstBase := 0xFFFFFFF0 });
      Quiet s ∧ s.mem.wf = true ∧ s.valid = ⟨true, true, true, true, true⟩
        ∧ DestinationTakes s (dimLo s.dims.src * dimHi s.dims.src) 4 ∧ DestinationTakes s (1 * workW s * workH s) 1
        ∧ DestinationTakes s (3 * workW s * workH s) 1) := by decide +kernel

/-- The state of a second frame with the same source and configuration: other buffers, another random state, and the LUT
built. -/
def tOther : State := { tFull with rngState := 5, lut := ⟨lutTable Tone.reset, true, Tone.reset⟩ }

/-- Of FrameHead, FrameIsStages, FramePure (two frames whose old random states, buffers and LUTs differ). -/
theorem test_witness_frame :
    (NotMidFrame tSource ∧ NotMidFrame tOther ∧ LutOk tSource ∧ LutOk tOther)
      ∧ (∀ a, tSource.cfg.srcBase.toNat ≤ a → a < tSource.cfg.srcBase.toNat + 4 * cfgW tSource * cfgH tSource →
          tSource.mem.read a = tOther.mem.read a)
      ∧ (tSource.cfg = tOther.cfg ∧ tSource.plat = tOther.plat)
      ∧ (Quiet tSource ∧ Quiet tOther ∧ tSource.mem.wf = true ∧ tOther.mem.wf = true ∧ FrameRuns tSource
        ∧ FrameRuns tOther ∧ tSource.cfg.rngFree = false)
      ∧ (tSource.lut ≠ tOther.lut ∧ tSource.rngState ≠ tOther.rngState ∧ tSource.bufs ≠ tOther.bufs) :=
  ⟨⟨fun _ _ h => Phase.noConfusion h, fun _ _ h => Phase.noConfusion h, fun h => Bool.noConfusion h,
      fun _ => ⟨rfl, by decide⟩⟩,
    fun _ _ _ => rfl, ⟨rfl, rfl⟩, by decide +kernel,
    fun h => Bool.noConfusion (congrArg Lut.built h), by decide, by decide⟩

/-- Of FrameTail: `tFull` with the RUN_FRAME that has ended its dither stage. -/
theorem test_witness_frame_tail :
    (let s := { tFull with snap := tFull.cfg, phase := .run 0x01 .depth 0 };
      Quiet s ∧ s.phase = .run 0x01 .depth 0 ∧ s.mem.wf = true ∧ s.race.touched = []
        ∧ WritesGo s s.snap.dstBase.toNat (dimLo s.dims.src * dimHi s.dims.src) 4) := by decide +kernel

/-- Of both clauses of SampleBus: the read of pixel (1, 1) is the first one refused. -/
theorem test_witness_sample_bus :
    (let s := { tSource with plat := { tPlat with busRules := [⟨⟨0x100C, 4⟩, 4, .read⟩] } };
      Quiet s ∧ 1 < nextW s ∧ 1 < nextH s ∧ refuses s (pixelAddr s 1 1) 4 .read = true
        ∧ (∀ x y, x < nextW s → y < 1 ∨ y = 1 ∧ x < 1 → refuses s (pixelAddr s x y) 4 .read = false)
        ∧ SourceFits s ∧ SourceOrdinary s ∧ NotMidFrame s ∧ FrameLaunches s) := by
  have h :
      let s := { tSource with plat := { tPlat with busRules := [⟨⟨0x100C, 4⟩, 4, .read⟩] } }
      ∀ x, x < nextW s → ∀ y, y < 2 → (y < 1 ∨ y = 1 ∧ x < 1) → refuses s (pixelAddr s x y) 4 .read = false := by
    decide +kernel
  refine ⟨by decide, by decide, by decide, by decide +kernel, ?_, by decide +kernel, by decide +kernel,
    fun _ _ h => Phase.noConfusion h, by decide +kernel⟩
  intro x y hx hy
  exact h x hx y (by omega) hy

/-- Of UpscaleBus: the write of pixel (0, 1) is the first one refused. -/
theorem test_witness_upscale_bus :
    (let s := { tFull with plat := { tPlat with busRules := [⟨⟨0x3008, 4⟩, 4, .write⟩] } };
      Quiet s ∧ s.mem.wf = true ∧ s.valid.cbuf = true
        ∧ s.cfg.dstBase.toNat + 4 * dimLo s.dims.src * dimHi s.dims.src ≤ 4294967296
        ∧ meetsDevice s ⟨s.cfg.dstBase.toNat, 4 * dimLo s.dims.src * dimHi s.dims.src⟩ = false
        ∧ 0 < dimLo s.dims.src ∧ 1 < dimHi s.dims.src
        ∧ refuses s (s.cfg.dstBase.toNat + 4 * (1 * dimLo s.dims.src + 0)) 4 .write = true
        ∧ ∀ k, k < 1 * dimLo s.dims.src + 0 → refuses s (s.cfg.dstBase.toNat + 4 * k) 4 .write = false) := by
  decide +kernel

/-- Of the DUMPs of UpscaleBus, the first and the last byte the first one refused; and of its last clause. -/
theorem test_witness_dump_and_frame_bus :
    (let s := { tFull with plat := { tPlat with busRules := [⟨⟨0x3000, 1⟩, 1, .write⟩] } };
      Quiet s ∧ s.mem.wf = true ∧ s.valid = ⟨true, true, true, true, true⟩
        ∧ s.cfg.dstBase.toNat + 3 * workW s * workH s ≤ 4294967296
        ∧ meetsDevice s ⟨s.cfg.dstBase.toNat, 3 * workW s * workH s⟩ = false ∧ 0 < 1 * workW s * workH s
        ∧ refuses s (s.cfg.dstBase.toNat + 0) 1 .write = true)
      ∧ (let s := { tFull with plat := { tPlat with busRules := [⟨⟨0x300B, 1⟩, 1, .write⟩] } };
        11 < 3 * workW s * workH s ∧ refuses s (s.cfg.dstBase.toNat + 11) 1 .write = true
          ∧ ∀ k, k < 11 → refuses s (s.cfg.dstBase.toNat + k) 1 .write = false)
      ∧ (let s := { tFull with
          snap := tFull.cfg, phase := .run 0x01 .depth 0, plat := { tPlat with busRules := [⟨⟨0x300C, 4⟩, 4, .write⟩] } };
        Quiet s ∧ s.phase = .run 0x01 .depth 0 ∧ s.mem.wf = true ∧ s.race.touched = []
          ∧ s.snap.dstBase.toNat + 4 * (dimLo s.dims.src * dimHi s.dims.src) ≤ 4294967296
          ∧ 1 < dimLo s.dims.src ∧ 1 < dimHi s.dims.src
          ∧ refuses s (s.snap.dstBase.toNat + 4 * (1 * dimLo s.dims.src + 1)) 4 .write = true
          ∧ ∀ k, k < 1 * dimLo s.dims.src + 1 → refuses s (s.snap.dstBase.toNat + 4 * k) 4 .write = false) := by
  decide +kernel

/-- Of KernelStyles, VariableCoefficientStyle, SerpentineStyle, OrderedStyles, LineStyles, PatternStyles, RandomStyles,
SineStyles and PassthroughCopies: DITHER and RUN_FRAME at their dither stage. -/
theorem test_witness_styles :
    (Quiet (tDither (tFlat 2 2 100) id) ∧ (tDither (tFlat 2 2 100) id).phase = .run 0x05 .dither 0)
      ∧ (let s := { tDither (tFlat 2 2 100) id with phase := .run 0x01 .dither 0 };
        Quiet s ∧ s.phase = .run 0x01 .dither 0) := by decide

/-- Of MaskBinary and StyleFrame. -/
theorem test_witness_style_runs :
    isCommand .ordBayer = false ∧ (∀ c, Instr.ordBayer ≠ .passthrough c) ∧ (tDither (tFlat 2 2 100) id).script = []
      ∧ ∃ t, exec .ordBayer (tDither (tFlat 2 2 100) id) = .next t :=
  ⟨by decide, fun _ h => Instr.noConfusion h, rfl, eq_next_of_goes (by decide +kernel)⟩

/-- Of AllWhiteStaysWhite. -/
theorem test_witness_all_white :
    let s := tDither (tFlat 2 2 255) id
    Quiet s ∧ s.phase = .run 0x05 .dither 0 ∧ (∀ tap ∈ tapsOf .edJjn s, tap.wt.natAbs ≤ 2 ^ 53)
      ∧ ∀ x y, x < workW s → y < workH s → px s.bufs.tbuf x y = 255 := by
  have h :
      let s := tDither (tFlat 2 2 255) id
      ∀ x, x < workW s → ∀ y, y < workH s → px s.bufs.tbuf x y = 255 := by decide +kernel
  exact ⟨by decide, rfl, by decide, fun x y hx hy => h x hx y hy⟩

/-- Of ConfigFrame and of each clause of MemoryFrame. -/
theorem test_witness_frames :
    tFull.script = [] ∧ tFull.mem.wf = true
      ∧ (∃ t, exec .depth tFull = .next t) ∧ writesFrame .depth = false
      ∧ (∃ t, exec .upscale tFull = .next t) ∧ (∃ t, exec .dumpIbuf tFull = .next t)
      ∧ (∃ t, exec .dumpCbuf tFull = .next t) ∧ (∃ t, exec .runFrame tSource = .next t) ∧ NotMidFrame tSource
      ∧ (∃ t, exec .runFrame { tFull with snap := tFull.cfg, phase := .run 0x01 .depth 0 } = .next t)
      ∧ ¬NotMidFrame { tFull with snap := tFull.cfg, phase := .run 0x01 .depth 0 } :=
  ⟨rfl, by decide +kernel, eq_next_of_goes (by decide +kernel), rfl, eq_next_of_goes (by decide +kernel),
    eq_next_of_goes (by decide +kernel), eq_next_of_goes (by decide +kernel), eq_next_of_goes (by decide +kernel),
    fun _ _ h => Phase.noConfusion h, eq_next_of_goes (by decide +kernel), fun h => h 0x01 0 rfl⟩

/-- Of IdleKeeps and PlatformFixed: another agent writes memory. -/
theorem test_witness_idle :
    let s := { tFull with script := [.memWrite 0x4000 1] }
    s.phase = .idle ∧ (∀ w rest, s.script ≠ .write 0x010 4 w :: rest)
      ∧ (∀ n torn rest, s.script ≠ .resetOn n torn :: rest) ∧ ∃ t, step s = .next t := by
  refine ⟨rfl, fun w rest h => ?_, fun n torn rest h => ?_, eq_next_of_goes (by decide +kernel)⟩
  · exact HostItem.noConfusion (List.cons.inj h).1
  · exact HostItem.noConfusion (List.cons.inj h).1

/-- Of MemoryInvariant, RegisterInvariant and LutInvariant, on a running command and with a LUT built. -/
theorem test_witness_invariants :
    let s := { tDither (tFlat 2 2 100) id with lut := ⟨lutTable Tone.reset, true, Tone.reset⟩ }
    s.mem.wf = true ∧ RngOk s ∧ BasesOk s ∧ DiffuserOk s ∧ LutOk s ∧ ∃ t, step s = .next t :=
  ⟨by decide, by decide, by decide, by decide, fun _ => ⟨rfl, by decide⟩, eq_next_of_goes (by decide +kernel)⟩

/-- Of BufferInvariant and FlagInvariant, with all buffers valid. -/
theorem test_witness_buffers_flags :
    BuffersOk tFull ∧ FlagsOk tFull ∧ ∃ t, step { tFull with script := [.write 0x010 4 0x06] } = .next t :=
  ⟨⟨by decide, by decide +kernel, fun _ _ _ h => Phase.noConfusion h⟩,
    ⟨by decide, fun _ _ _ h => Phase.noConfusion h, by decide, by decide, by decide, fun h => Bool.noConfusion h,
      fun h => Bool.noConfusion h⟩, eq_next_of_goes (by decide +kernel)⟩

/-- Of the second clause of ResetState. -/
theorem test_witness_reset_state :
    let s := { tFull with script := [.resetOn 0 0, .read 0x000 4] }
    s.phase = .idle ∧ s.script = .resetOn 0 0 :: [.read 0x000 4] ∧ ∃ t, step s = .next t :=
  ⟨rfl, rfl, ⟨_, rfl⟩⟩

/-- Of ResetDuringUpscale: UPSCALE before its first write with one more performed and the next torn after its first byte,
and as its last row ends; the DUMPs at the first point of row 1; RUN_FRAME's UPSCALE stage after its first write. -/
theorem test_witness_reset_during_upscale :
    (let s := { tFull with script := [.pass, .resetOn 1 0b0001] };
      s.script = List.replicate (1 + 0 * (2 + 2) + 0) .pass ++ .resetOn 1 0b0001 :: [] ∧ dimLo s.dims.src = 2
        ∧ dimHi s.dims.src = 2 ∧ s.mem.wf = true ∧ s.valid = ⟨true, true, true, true, true⟩ ∧ s.status.pending = false
        ∧ DestinationTakes s (dimLo s.dims.src * dimHi s.dims.src) 4
        ∧ DestinationTakes s (1 * workW s * workH s) 1 ∧ DestinationTakes s (3 * workW s * workH s) 1)
      ∧ (List.replicate 8 .pass ++ [.resetOn 0 0] : List HostItem)
        = List.replicate (1 + 1 * (2 + 2) + 3) .pass ++ .resetOn 0 0 :: []
      ∧ (List.replicate 9 .pass ++ [.resetOn 5 1] : List HostItem)
        = List.replicate (1 + 1 * (3 * workW tFull + 2) + 0) .pass ++ .resetOn 5 1 :: []
      ∧ (let s := { tFull with
            snap := tFull.cfg, phase := .run 0x01 .depth 0, script := List.replicate 11 .pass ++ [.resetOn 0 0b1000] };
        s.phase = .run 0x01 .depth 0 ∧ s.status.pending = false ∧ s.mem.wf = true ∧ s.race.touched = []
          ∧ WritesGo s s.snap.dstBase.toNat (dimLo s.dims.src * dimHi s.dims.src) 4
          ∧ s.script = List.replicate (2 * max 1 (2 * workH s) + 2 + 0 * (2 + 2) + 1) .pass ++ .resetOn 0 0b1000 :: []) := by
  decide +kernel

/-- Of StatusAndIrq and all clauses of RegisterReadback; RNG_SEED and PAL[15] among the registers written, the engine
IDLE and RUNNING among the states read. -/
theorem test_witness_registers :
    tBase.inReset = false ∧ writeMask .rngSeed = some 0xFFFFFFFF ∧ writeMask (.pal 15) = some 0x00FFFFFF
      ∧ writeMask (.lutWin 63) = none ∧ writeMask .id = none ∧ busy tBase = false
      ∧ busy (tDither [] id) = true ∧ (tDither [] id).inReset = false := by decide

/-- Of the clauses of PortErrors; its reserved offsets at the ends of each range, and the registers beside them. -/
theorem test_witness_port_errors :
    ((2 : Nat) ≠ 4 ∧ (0x041 : BitVec 12).toNat % 4 ≠ 0)
      ∧ ([0x038, 0x03C, 0x080, 0x0FC, 0x140, 0x1FC, 0x300, 0xFFC] : List (BitVec 12)).all
          (fun off => decide (off.toNat % 4 = 0) && decide (off = 0x038 ∨ off = 0x03C ∨ 0x080 ≤ off ∧ off < 0x100
            ∨ 0x140 ≤ off ∧ off < 0x200 ∨ 0x300 ≤ off) && decide (regAt off.toNat = none)) = true
      ∧ ([0x034, 0x040, 0x07C, 0x100, 0x13C, 0x200, 0x2FC] : List Nat).all (fun off => decide (regAt off ≠ none)) = true
      ∧ (0x014 : BitVec 12).toNat % 4 = 0 ∧ ({ tBase with inReset := true } : State).inReset = true := by
  decide

/-- Of PaletteEnds, RandomSource, RoundNearest (a tie; the roots of 2 and of the smallest subnormal, of -1, -0 and an
infinity; a remainder by a finite value and by an infinity) and BayerMatrices. -/
theorem test_witness_values :
    (1 ≤ 16 ∧ 16 ≤ 16) ∧ (0xFFFFFFFF : Word) ≠ 0 ∧ (0 < 2 ∧ fRound 5 2 < fInfMag ∧ fRound 5 2 = 2)
      ∧ (fNeg f2 = false ∧ 0 < fMag f2 ∧ fMag f2 < fInfMag ∧ fNeg 1 = false ∧ 0 < fMag 1 ∧ fMag fMinus1 ≠ 0
        ∧ fNeg fMinus1 = true ∧ fMag 0x8000000000000000 = 0 ∧ fMag 0x7FF0000000000000 = fInfMag)
      ∧ 1 < 2 ^ (0 + 1) := by decide +kernel

/-- Of the first two clauses of PendingAbandons. -/
theorem test_witness_abandonment :
    (let s := { tDither (tFlat 2 2 100) id with status := { tBase.status with pending := true }, pendCmd := 0x03 };
      isCommand .noiseWhite = false ∧ s.script = [] ∧ s.status.pending = true ∧ s.phase = .run 0x05 .dither 0
        ∧ 2 ≤ workH s)
      ∧ (let s := { tFull with status := { tBase.status with pending := true } };
        s.script = [] ∧ s.status.pending = true ∧ s.mem.wf = true ∧ s.valid.cbuf = true
          ∧ DestinationTakes s (dimLo s.dims.src * dimHi s.dims.src) 4 ∧ 2 ≤ dimHi s.dims.src) := by decide +kernel

/-- Of its third clause: the word lands at the first and at the last point of row 0 of SAMPLE, TONEMAP, DEPTH, PALETTE,
UPSCALE and the DUMPs. -/
theorem test_witness_abandonment_in_rows :
    (tFull.status.pending = false ∧ tFull.inReset = false ∧ tFull.mem.wf = true ∧ SourceFits tFull ∧ SourceReadable tFull
      ∧ tFull.valid = ⟨true, true, true, true, true⟩ ∧ ¬pole tFull ∧ tFull.cfg.palCount.toNat = 2
      ∧ DestinationTakes tFull (dimLo tFull.dims.src * dimHi tFull.dims.src) 4
      ∧ DestinationTakes tFull (1 * workW tFull * workH tFull) 1 ∧ DestinationTakes tFull (3 * workW tFull * workH tFull) 1)
      ∧ (0 + 1 < nextH tFull ∧ 0 + 1 < workH tFull ∧ 0 + 1 < dimHi tFull.dims.src)
      ∧ (2 + 0 * (nextW tFull + 2) ≤ 2 ∧ 5 < 2 + (0 + 1) * (nextW tFull + 2))
      ∧ (1 + 0 * (dimLo tFull.dims.src + 2) ≤ 1 ∧ 4 < 1 + (0 + 1) * (dimLo tFull.dims.src + 2))
      ∧ (2 + 0 * 2 ≤ 2 ∧ 3 < 2 + (0 + 1) * 2)
      ∧ (1 + 0 * (3 * workW tFull + 2) ≤ 1 ∧ 8 < 1 + (0 + 1) * (3 * workW tFull + 2))
      ∧ ({ tFull with script := [.pass, .write 0x010 4 7] } : State).script = wordAt 1 7 := by decide +kernel

/-- Of its other clauses: a word that lands on a variant of DITHER and of RUN_FRAME, on the first step of a RUN_FRAME
before and after its TONEMAP stage has begun, and on the third step before and in its UPSCALE stage. -/
theorem test_witness_abandonment_of_frames :
    (let s := { tDither (tFlat 2 2 100) id with script := [.pass, .write 0x010 4 7] };
      s.script = wordAt 1 7 ∧ s.status.pending = false ∧ s.inReset = false ∧ s.phase = .run 0x05 .dither 0
        ∧ decodeCmd 0x05 ≠ .runFrame ∧ 1 + 2 < 2 * workH s ∧ decodeCmd 0x01 = .runFrame ∧ 4 < max 1 (2 * workH s) + 1)
      ∧ (FrameRuns tSource ∧ 10 < nextH tSource * (nextW tSource + 2) + 3
        ∧ nextH tSource * (nextW tSource + 2) + 3 ≤ 16 ∧ 16 < nextH tSource * (nextW tSource + 4) + 5)
      ∧ (let s := { tFull with snap := tFull.cfg, phase := .run 0x01 .depth 0 };
        s.status.pending = false ∧ s.inReset = false ∧ s.phase = .run 0x01 .depth 0 ∧ s.mem.wf = true
          ∧ s.race.touched = [] ∧ WritesGo s s.snap.dstBase.toNat (dimLo s.dims.src * dimHi s.dims.src) 4
          ∧ 9 < 2 * max 1 (2 * workH s) + 2 ∧ 0 + 1 < dimHi s.dims.src
          ∧ 2 * max 1 (2 * workH s) + 2 + 0 * (dimLo s.dims.src + 2) ≤ 10
          ∧ 13 < 2 * max 1 (2 * workH s) + 2 + (0 + 1) * (dimLo s.dims.src + 2)) := by decide +kernel

/-- Of the second clause of CommandEnds: a launch that is refused, and one beside the device region. -/
theorem test_witness_device_launch :
    isCommand .upscale = true ∧ tFull.script = [] ∧ NotMidFrame tFull ∧ tableError .upscale tFull = none
      ∧ launchRegions .upscale tFull = [⟨0x3000, 16⟩] ∧ inRegion ⟨0x3000, 16⟩ 0x300F ∧ ¬inRegion ⟨0x3000, 16⟩ 0x3010 := by
  refine ⟨rfl, rfl, fun _ _ h => Phase.noConfusion h, ?_⟩
  decide +kernel

/-- Of RacesAdmitted: a running command with a race on an address and none on another, no command, and a write in
flight. -/
theorem test_witness_races :
    (let s := { tDither [] id with race := ⟨[(0x2000, 0), (0x2000, 9)], [⟨0x2000, 0, 7⟩]⟩ };
      s.mem.wf = true ∧ recorded s.race.touched 0x2000 = [0, 9] ∧ recorded s.race.touched 0x2001 = []
        ∧ oldValues s.race.wrote 0x2000 = [0] ∧ newValues s.race.wrote 0x2000 = [7]
        ∧ newValues s.race.wrote 0x2001 = [] ∧ busy s = true ∧ inFlight [⟨0x2000, [7, 8]⟩] 0x2001 s = [8])
      ∧ busy tBase = false := by decide

end Sys2Proof.Machine
end

section
/-! PROOFS. STATUS as a word (10_state.md R40), the register port at a register's offset (R85), and the interrupt line
(60_exceptions.md R420). -/

namespace Sys2Proof.Machine

/-! ### Words from bits -/

/-- Bit `i` of a word made from bits; the bits above the list are 0. -/
theorem testBit_wordOfBits (bs : List Bool) (i : Nat) : (wordOfBits bs).testBit i = bs.getD i false := by
  induction bs generalizing i with
  | nil => simp [wordOfBits]
  | cons b bs ih =>
    have hbit : wordOfBits (b :: bs) = Nat.bit b (wordOfBits bs) := by
      rw [wordOfBits, Nat.bit_val, Nat.add_comm]
    rw [hbit]
    cases i with
    | zero => exact Nat.testBit_bit_zero b _
    | succ i => rw [Nat.testBit_bit_succ, ih, List.getD_cons_succ]

/-- The same of a register word, which holds every bit of a list of at most 32. -/
theorem getLsbD_wordOfBits (bs : List Bool) (h : bs.length ≤ 32) (i : Nat) :
    (BitVec.ofNat 32 (wordOfBits bs)).getLsbD i = bs.getD i false := by
  rw [BitVec.getLsbD_ofNat, testBit_wordOfBits]
  by_cases hi : i < 32
  · simp [hi]
  · have habove : bs.getD i false = false := List.getD_eq_default _ _ (by omega)
    rw [habove, Bool.and_false]

/-! ### The register port outside reset -/

/-- A read at a register's offset answers the word that register reads as (R85). -/
theorem portRead_at {off : BitVec 12} {r : Reg} {s : State} (hr : s.inReset = false)
    (ht : portTakes off 4 = true) (ha : regAt off.toNat = some r) :
    portRead off 4 s = answer (.data (regRead r s).1) (regRead r s).2 := by
  simp [portRead, ht, hr, ha]

/-- A write at a register's offset is that register's write (R85). -/
theorem portWrite_at {off : BitVec 12} {r : Reg} {s : State} (v : Word) (hr : s.inReset = false)
    (ht : portTakes off 4 = true) (ha : regAt off.toNat = some r) :
    portWrite off 4 v s = regWrite r v s := by
  simp [portWrite, ht, hr, ha]

/-! ### STATUS and IRQ_EN at the port -/

theorem portRead_status {s : State} (hr : s.inReset = false) :
    portRead 0x014 4 s = answer (.data (statusWord s)) s :=
  portRead_at (r := .status) hr (by decide) (by decide)

theorem portWrite_status {s : State} (v : Word) (hr : s.inReset = false) :
    portWrite 0x014 4 v s = { s with status := clearStatus v s.status } :=
  portWrite_at (r := .status) v hr (by decide) (by decide)

theorem portWrite_irqEn {s : State} (v : Word) (hr : s.inReset = false) :
    portWrite 0x018 4 v s = { s with irqEn := irqEnOf v } :=
  portWrite_at (r := .irqEn) v hr (by decide) (by decide)

theorem getLsbD_statusWord (s : State) (i : Nat) :
    (statusWord s).getLsbD i = [busy s, s.status.done, s.status.err, s.status.preempt, s.status.pending,
      s.status.styleUnk, s.status.msizeFb].getD i false :=
  getLsbD_wordOfBits _ (by simp) i

theorem statusWord_reset : statusWord State.reset = 0 := rfl

/-- R420: the line is up exactly while an enabled one of DONE, ERR and PREEMPT is set. -/
theorem irq_iff (s : State) : irq s = true ↔ s.status.done = true ∧ s.irqEn.doneIe = true
    ∨ s.status.err = true ∧ s.irqEn.errIe = true ∨ s.status.preempt = true ∧ s.irqEn.preemptIe = true := by
  simp only [irq, Bool.or_eq_true, Bool.and_eq_true, or_assoc]

/-- Settles O49: the bits of the word, the port at STATUS's and IRQ_EN's offsets, and the line as a function of the
status bits and the enables, which a write of IRQ_EN replaces. -/
theorem statusAndIrq : Obligations.StatusAndIrq := by
  refine ⟨getLsbD_statusWord, fun s hr => portRead_status hr, fun s v hr => portWrite_status v hr, statusWord_reset,
    irq_iff, fun s v hr => ?_⟩
  rw [portWrite_irqEn v hr]
  exact irq_iff { s with irqEn := irqEnOf v }

end Sys2Proof.Machine
end

section
/-! PROOFS. What the decoder's two catch-all rows catch (30_encoding.md R123, R132), and what runs for them: an illegal
command word (60_exceptions.md R402), and a DITHER with its passthrough (43_dither_dispatch.md R253, R259). -/

namespace Sys2Proof

/-! ### Illegal command words -/

/-- R122: the reserved selectors of DUMP. -/
theorem decodeDump_eq_illegalCmd_iff (w : Word) : decodeDump w = .illegalCmd w ↔ 5 ≤ (cmdSel w).toNat := by
  unfold decodeDump
  split
  case h_6 => simp only [true_iff, imp_false] at *; omega
  all_goals simp [*]

/-- R121: the opcodes whose SEL is 0 end at UPSCALE. -/
theorem decodeOp_eq_illegalCmd_iff (w : Word) : decodeOp w = .illegalCmd w ↔ 9 ≤ (cmdOp w).toNat := by
  unfold decodeOp
  split
  case h_10 => simp only [true_iff, imp_false] at *; omega
  all_goals simp [*]

/-- R123, from the order of R124's tests. -/
theorem decodeCmd_eq_illegalCmd_iff (w : Word) :
    decodeCmd w = .illegalCmd w ↔
      10 ≤ (cmdOp w).toNat ∨ cmdRsv w ≠ 0 ∨ cmdOp w ≠ 9 ∧ cmdSel w ≠ 0 ∨ cmdOp w = 9 ∧ 5 ≤ (cmdSel w).toNat := by
  unfold decodeCmd
  split
  case isTrue hbad => exact iff_of_true rfl (by tauto)
  case isFalse hok =>
    obtain ⟨hrsv, hop⟩ := not_or.mp hok
    split
    case isTrue hdump => simp [decodeDump_eq_illegalCmd_iff, hdump, not_not.mp hrsv]
    case isFalse hdump =>
      split
      case isTrue hsel => exact iff_of_true rfl (.inr (.inr (.inl ⟨hdump, hsel⟩)))
      case isFalse hsel =>
        have hnine : ¬ 9 ≤ (cmdOp w).toNat := by bv_omega
        simp [decodeOp_eq_illegalCmd_iff, hnine, hop, not_not.mp hrsv, not_not.mp hsel]

/-! ### Unassigned style codes -/

/-- The decoder's table of R130 leaves to the passthrough what the list of R132 names: all 256 codes compared. -/
theorem decodeStyle_eq_passthrough_iff :
    ∀ c : Byte, decodeStyle c = .passthrough c ↔ unassignedCode c = true := by decide

/-- The list of R132 as ranges of codes. -/
theorem unassignedCode_iff (c : Byte) :
    unassignedCode c = true ↔
      c ≤ 0x0F ∨ 0x18 ≤ c ∧ c ≤ 0x1F ∨ 0x22 ≤ c ∧ c ≤ 0x2F ∨ 0x33 ≤ c ∧ c ≤ 0x3F ∨ 0x44 ≤ c ∧ c ≤ 0x4F ∨ c = 0x53
        ∨ 0x57 ≤ c ∧ c ≤ 0x5F ∨ 0x64 ≤ c ∧ c ≤ 0x6F ∨ 0x71 ≤ c ∧ c ≤ 0x7F ∨ 0x81 ≤ c := by
  have hmax : c.toNat ≤ 255 := Nat.le_of_lt_succ c.isLt
  have hpoint : 0x53 ≤ c.toNat ∧ c.toNat ≤ 0x53 ↔ c = 0x53 := by bv_omega
  simp [unassignedCode, within, or_assoc, BitVec.le_def, hpoint, hmax]

namespace Machine

/-! ### What runs for the catch-all rows -/

/-- R402: the one check of an illegal word fails on every state. -/
theorem exec_illegalCmd_quiet (w : Word) (s : State) (h : s.script = []) :
    exec (.illegalCmd w) s = .next (afterError .illegalCmd (cmdOp w) 0 s) := by
  show runCommand w (fun _ => [⟨true, .illegalCmd, 0⟩]) noRegions (fun s => .on s) s = _
  rw [runCommand_fails w _ _ _ s h ⟨true, .illegalCmd, 0⟩ rfl, failed_accept]

/-- R46, R251: STYLE_UNK says what the decoder makes of the snapshot's style code. -/
theorem startDither_styleUnk_iff (s : State) :
    (startDither s).status.styleUnk = true ↔ decode (.style s.snap.style) = .passthrough s.snap.style :=
  decide_eq_true_iff

/-- R259: DITHER with its input valid and a pattern scale, when nothing lands, is at the dispatch of its variant. -/
theorem exec_dither_quiet (s : State) (h : s.script = []) (hv : s.valid.tbuf = true) (hp : s.cfg.pscale ≠ 0) :
    exec .dither s = .next (dispatchDither (accept 0x05 s)) := by
  have hscale : s.cfg.pscale.toNat ≠ 0 := fun h0 => hp (BitVec.eq_of_toNat_eq h0)
  exact runCommand_runs 0x05 (fun s => [checkSeq s.valid.tbuf, checkPscale s]) noRegions _ s h
    (by simp [checkSeq, checkPscale, patScale, hv, hscale]) rfl

/-- R253: the passthrough when nothing lands, whatever the code. -/
theorem exec_passthrough_quiet (code : Byte) (s : State) (w : Word) (r : Nat) (hq : Quiet s)
    (hp : s.phase = .run w .dither r) :
    exec (.passthrough code) s =
      .next (ditherResult w (rows (workW s) (workH s) fun x y => px s.bufs.tbuf x y) s.rngState s) :=
  runPointwise_quiet (fun _ _ _ i => i) s w r hq hp fun _ _ _ _ _ _ => rfl

/-- Outside RUN_FRAME the end of the dither stage is the end of the command (43_dither_dispatch.md R259). -/
theorem ditherResult_of_ne_runFrame {w : Word} (hw : decodeCmd w ≠ .runFrame) (m : List (List Byte)) (g : Word)
    (s : State) :
    ditherResult w m g s =
      { s with
        bufs := { s.bufs with mbuf := m }
        valid := { s.valid with mbuf := true }
        diff := ⟨[], none⟩
        rngState := g
        status := { s.status with done := true }
        phase := .idle
        race := ⟨[], []⟩ } :=
  if_neg hw

/-- A DITHER of the passthrough, from acceptance to its end: the start of the stage, then MBUF is TBUF. -/
theorem runAll_dither_passthrough (code : Byte) (s : State) (hq : Quiet s) (hv : s.valid.tbuf = true)
    (hp : s.cfg.pscale ≠ 0) :
    runAll [.dither, .passthrough code] s =
      .next (ditherResult 0x05 (rows (workW s) (workH s) fun x y => px s.bufs.tbuf x y)
        (startDither (accept 0x05 s)).rngState (dispatchDither (accept 0x05 s))) := by
  have hstart : Quiet (dispatchDither (accept 0x05 s)) := hq
  simp only [runAll, exec_dither_quiet s hq.1 hv hp, exec_passthrough_quiet code _ 0x05 0 hstart rfl]
  rfl

/-! ### The statements -/

/-- Settles O4: the decoder's tests give the four cases of R123; the word's one check gives the error of R402. -/
theorem illegalWords : Obligations.IllegalWords := fun w =>
  ⟨decodeCmd_eq_illegalCmd_iff w, fun s h => exec_illegalCmd_quiet w s h⟩

/-- Settles O5: the table of R130 against the list of R132, the flag at the start of the stage, and the two steps of a
DITHER whose variant is the passthrough. -/
theorem unassignedStyles : Obligations.UnassignedStyles := by
  intro c
  refine ⟨(decodeStyle_eq_passthrough_iff c).trans (unassignedCode_iff c), ?_, ?_⟩
  · rintro s rfl
    exact startDither_styleUnk_iff s
  · rintro s hq rfl hv hp hc
    have hunk : (startDither (accept 0x05 s)).status.styleUnk = true :=
      (startDither_styleUnk_iff (accept 0x05 s)).mpr hc
    rw [hc, runAll_dither_passthrough _ s hq hv hp, ditherResult_of_ne_runFrame (by decide)]
    exact ⟨_, rfl, rfl, rfl, hunk, rfl, rfl⟩

end Machine

end Sys2Proof
end

section
/-! PROOFS. What starts the engine (40_commands.md R160, R167): CMD is written at one offset of the window and nowhere
else, an IDLE engine takes its word in the same step, and every other item from outside leaves an IDLE engine IDLE. -/

namespace Sys2Proof.Machine

/-! ### A step of the IDLE engine -/

theorem fetch_idle {s : State} (h : s.phase = .idle) : fetch s = none := by
  simp [fetch, h]

theorem fetch_word {s : State} {w : Word} (h : s.phase = .fetch w) : fetch s = some (.cmd w) := by
  simp [fetch, h]

theorem runFetched_idle {s : State} (h : s.phase = .idle) : runFetched s = .next s := by
  simp [runFetched, fetch_idle h]

/-- A word on its way into acceptance is decoded as a command word. -/
theorem runFetched_word {s : State} {w : Word} (h : s.phase = .fetch w) : runFetched s = exec (decode (.cmd w)) s := by
  simp [runFetched, fetch_word h]

/-- With the engine IDLE the first item of the script acts, and the engine runs what that item has left it to decode. -/
theorem step_idle_cons {s : State} {i : HostItem} {rest : List HostItem} (hp : s.phase = .idle)
    (hs : s.script = i :: rest) : step s = runFetched (hostAct [] i { s with script := rest }) := by
  simp [step, hp, hs]

/-! ### A write of CMD -/

theorem submit_idle {s : State} (w : Word) (h : s.phase = .idle) : submit w s = { s with phase := .fetch w } := by
  simp [submit, busy, h]

theorem submit_busy {s : State} (w : Word) (h : busy s = true) :
    submit w s = { s with pendCmd := w, status := { s.status with pending := true } } := by
  simp [submit, h]

theorem portWrite_cmd {s : State} (w : Word) (hr : s.inReset = false) : portWrite 0x010 4 w s = submit w s :=
  portWrite_at (r := .cmd) w hr (by decide) (by decide)

/-- R160: a CMD write that finds the engine IDLE puts its word on the way into acceptance. -/
theorem hostAct_cmd_idle {s : State} (ws : List PortWrite) (w : Word) (hp : s.phase = .idle)
    (hr : s.inReset = false) : hostAct ws (.write 0x010 4 w) s = { s with phase := .fetch w } :=
  (portWrite_cmd w hr).trans (submit_idle w hp)

/-! ### What is not a write of CMD -/

/-- CMD stands at one offset of the window (10_state.md R34). -/
theorem regAt_eq_cmd_iff (off : Nat) : regAt off = some .cmd ↔ off = 0x010 := by
  constructor
  · intro h
    unfold regAt at h
    split at h
    case h_5 => rfl
    case h_31 => split_ifs at h <;> simp at h
    all_goals simp at h
  · rintro rfl
    rfl

theorem portTakes_iff (off : BitVec 12) (nb : Nat) : portTakes off nb = true ↔ nb = 4 ∧ off.toNat % 4 = 0 := by
  simp [portTakes]

/-- Of all registers only CMD's write moves the phase. -/
theorem regWrite_phase {r : Reg} (v : Word) (s : State) (h : r ≠ .cmd) : (regWrite r v s).phase = s.phase := by
  cases r
  case cmd => exact absurd rfl h
  all_goals rfl

/-- A port write of another offset or another width than CMD's leaves the phase as it is: the port refuses it, ignores
it, or writes another register. -/
theorem portWrite_phase {off : BitVec 12} {nb : Nat} (v : Word) (s : State) (h : ¬(off = 0x010 ∧ nb = 4)) :
    (portWrite off nb v s).phase = s.phase := by
  unfold portWrite
  split
  case isTrue => exact answer_phase _ s
  case isFalse hbad =>
    obtain ⟨hnb, -⟩ := (portTakes_iff off nb).mp (by simpa using hbad)
    split
    case isTrue => rfl
    case isFalse =>
      split
      case h_1 => rfl
      case h_2 r hreg =>
        refine regWrite_phase v s ?_
        rintro rfl
        have hoff : off.toNat = 0x010 := (regAt_eq_cmd_iff _).mp hreg
        exact h ⟨BitVec.eq_of_toNat_eq hoff, hnb⟩

theorem portRead_phase (off : BitVec 12) (nb : Nat) (s : State) : (portRead off nb s).phase = s.phase := by
  obtain ⟨l, n, h⟩ := portRead_state off nb s
  rw [h]

theorem otherRead_phase (f : List Byte) (a : Nat) (s : State) : (otherRead f a s).2.phase = s.phase := by
  rw [otherRead_state]

theorem otherWrite_idle {s : State} (a : Nat) (b : Byte) (h : s.phase = .idle) :
    otherWrite a b s = { s with mem := s.mem.write a b } := by
  simp [otherWrite, busy, h]

/-- Nothing from outside but a write of CMD starts the engine (R160); an assertion of reset leaves it IDLE too
(70_reset_and_hazards.md R441). -/
theorem hostAct_phase_idle (ws : List PortWrite) (i : HostItem) (s : State) (hp : s.phase = .idle)
    (hi : ∀ w, i ≠ .write 0x010 4 w) : (hostAct ws i s).phase = .idle := by
  cases i with
  | write off nb v =>
    have hcmd : ¬(off = 0x010 ∧ nb = 4) := by
      rintro ⟨rfl, rfl⟩
      exact hi v rfl
    exact (portWrite_phase v s hcmd).trans hp
  | read off nb => exact (portRead_phase off nb s).trans hp
  | waitIdle => exact (portRead_phase 0x014 4 s).trans hp
  | memWrite a b =>
    rw [hostAct, otherWrite_idle _ b hp]
    exact hp
  | memRead a => exact (otherRead_phase _ _ s).trans hp
  | pass => exact hp
  | resetOn n torn => rfl
  | resetOff => exact hp

/-! ### The statement -/

/-- Settles O7: a CMD write on the IDLE engine leaves its word to the same step, on a BUSY one it is the pending word;
after any other item the IDLE engine has nothing to decode, so the step ends where the item left it. -/
theorem commandFromCmdWrite : Obligations.CommandFromCmdWrite := by
  refine ⟨?_, ?_, ?_⟩
  · intro s w rest hp hr hs
    rw [step_idle_cons hp hs, hostAct_cmd_idle [] w (s := { s with script := rest }) hp hr]
    exact runFetched_word rfl
  · intro s w hb hr
    rw [portWrite_cmd w hr, submit_busy w hb]
  · intro s t i rest hp hs hi hstep
    have hidle : (hostAct [] i { s with script := rest }).phase = .idle := hostAct_phase_idle [] i _ hp hi
    rw [step_idle_cons hp hs, runFetched_idle hidle] at hstep
    cases hstep
    exact hidle

end Sys2Proof.Machine
end

section
/-! PROOFS. The downsampler (41_downsampler.md): SAMPLE and RUN_FRAME on a zero-area source (R202), and the luminance of
the grays (R206, R207). -/

namespace Sys2Proof.Machine

/-! ### A zero-area source -/

theorem zeroArea_iff (s : State) : zeroArea s = true ↔ snapW s = 0 ∨ snapH s = 0 := by
  simp [zeroArea]

/-- R161, R202: acceptance takes the live dimensions, so their area is the one the command tests. -/
theorem zeroArea_accept (w : Word) {s : State} (hz : cfgW s = 0 ∨ cfgH s = 0) : zeroArea (accept w s) = true :=
  (zeroArea_iff _).mpr hz

/-- R202 when nothing lands: the dimensions are latched and an empty IBUF is the one valid buffer. -/
theorem zeroAreaSample_quiet (s : State) (h : s.script = []) :
    zeroAreaSample s = .on (emptySample (latchDims 0 s)) := by
  unfold zeroAreaSample
  rw [land_quiet _ (latchDims 0 s) h, andThen_on]

/-- The state left by a command whose source has no area (R202). -/
def afterZeroArea (s : State) : State :=
  { afterCommand s with
    dims := ⟨0, s.cfg.srcDim, s.cfg.scale⟩
    valid := ⟨true, false, false, false, false⟩
    bufs := { s.bufs with ibuf := [] } }

theorem completed_emptySample_accept (w : Word) (s : State) :
    completed (emptySample (latchDims 0 (accept w s))) = afterZeroArea s := rfl

/-- A command with no check, no region and `zero_area_sample()` as its body, from acceptance to completion. -/
theorem runCommand_zeroAreaSample (w : Word) (checks : State → List Check) (regions : State → List Region)
    (body : State → Flow) (s : State) (h : s.script = []) (hc : checks (accept w s) = [])
    (hr : regions (accept w s) = []) (hb : body (accept w s) = thenComplete (zeroAreaSample (accept w s))) :
    runCommand w checks regions body s = .next (afterZeroArea s) := by
  have hscript : (accept w s).script = [] := h
  rw [runCommand_runs w checks regions body s h (by rw [hc]; rfl) (by rw [hr]; rfl), hb,
    zeroAreaSample_quiet _ hscript, thenComplete_quiet _ (by exact hscript), completed_emptySample_accept, out_on]

/-- R84, R171: a RUN_FRAME that is not between its two halves is accepted and starts from the beginning. -/
theorem execRunFrame_of_notMidFrame {s : State} (h : NotMidFrame s) :
    execRunFrame s = runCommand 0x01 (fun s => if zeroArea s then [] else frameChecks s)
      (fun s => if zeroArea s then [] else [sourceRegion s, ⟨s.snap.dstBase.toNat, sourceSize s⟩])
      (fun s => if zeroArea s then thenComplete (zeroAreaSample s) else frameHead s) s := by
  unfold execRunFrame
  split
  case h_1 w row hp => exact absurd hp (h w row)
  case h_2 => rfl

theorem exec_sample_zeroArea (s : State) (h : s.script = []) (hz : cfgW s = 0 ∨ cfgH s = 0) :
    exec .sample s = .next (afterZeroArea s) :=
  runCommand_zeroAreaSample 0x03 _ _ _ s h (if_pos (zeroArea_accept _ hz)) (if_pos (zeroArea_accept _ hz))
    (congrArg thenComplete (if_pos (zeroArea_accept _ hz)))

theorem exec_runFrame_zeroArea (s : State) (h : s.script = []) (hz : cfgW s = 0 ∨ cfgH s = 0) (hm : NotMidFrame s) :
    exec .runFrame s = .next (afterZeroArea s) :=
  (execRunFrame_of_notMidFrame hm).trans <|
    runCommand_zeroAreaSample 0x01 _ _ _ s h (if_pos (zeroArea_accept _ hz)) (if_pos (zeroArea_accept _ hz))
      (if_pos (zeroArea_accept _ hz))

/-- Settles O12: the zero-area test takes away every check and region, and both commands are then
`zero_area_sample()` and their completion. -/
theorem zeroAreaCompletes : Obligations.ZeroAreaCompletes := fun s h hz =>
  ⟨exec_sample_zeroArea s h hz, exec_runFrame_zeroArea s h hz⟩

/-! ### The luminance of the grays -/

/-- The binary64 sum of R205 before the floor, from the three levels. -/
def lumSum (r g b : Nat) : F64 :=
  fAdd (fAdd (fMul f0299 (fOfNat r)) (fMul f0587 (fOfNat g))) (fMul f0114 (fOfNat b))

/-- R205: where the floor of the sum is a level, the clamp leaves it as it is. -/
theorem lum_eq_of_floor {r g b : Byte} {n : Nat} (hf : fFloor (lumSum r.toNat g.toNat b.toNat) = n) (hn : n ≤ 255) :
    lum r g b = BitVec.ofNat 8 n := by
  show BitVec.ofNat 8 (min (fFloor (lumSum r.toNat g.toNat b.toNat)).toNat 255) = _
  rw [hf, Int.toNat_natCast, min_eq_left hn]

/-- The sum at a gray level. -/
abbrev graySum (n : Nat) : F64 := lumSum n n n

/-- The levels of R206, at which the rounding of the sum falls below the level. -/
def levelsBelow : List Nat :=
  [1, 2, 4, 8, 11, 13, 16, 22, 26, 27, 32, 39, 44, 51, 52, 54, 57, 59, 61, 64, 78, 81, 88, 91, 95, 101, 102, 104, 108,
    114, 115, 118, 122, 127, 128, 143, 149, 156, 157, 162, 169, 175, 176, 182, 183, 190, 195, 202, 203, 204, 208, 209,
    216, 223, 225, 228, 230, 235, 236, 239, 241, 244, 249, 251, 254]

/-- R206: which sums lie below their level is a matter of binary64's rounding, so each is evaluated. -/
theorem graySum_below : ∀ g : Fin 256, fLt (graySum g) (fOfNat g) = true ↔ g.val ∈ levelsBelow := by decide +kernel

theorem graySum_floor :
    ∀ g : Fin 256, fFloor (graySum g) = ((if g.val ∈ levelsBelow then g.val - 1 else g.val : Nat) : Int) := by
  decide +kernel

theorem graySum_bounds : ∀ g : Fin 256, fLe f0 (graySum g) = true ∧ fLe (graySum g) f255 = true := by decide +kernel

theorem lum_gray (g : Fin 256) :
    lum (BitVec.ofNat 8 g) (BitVec.ofNat 8 g) (BitVec.ofNat 8 g)
      = if g.val ∈ levelsBelow then BitVec.ofNat 8 (g - 1) else BitVec.ofNat 8 g := by
  have htoNat : (BitVec.ofNat 8 g).toNat = g := by rw [BitVec.toNat_ofNat, Nat.mod_eq_of_lt g.isLt]
  have hfloor := graySum_floor g
  rw [lum_eq_of_floor (by rwa [htoNat]) (by split <;> omega), apply_ite (BitVec.ofNat 8)]

/-- R207. -/
theorem lum_colours :
    [lum 255 0 0, lum 0 255 0, lum 0 0 255, lum 100 150 200, lum 50 60 70] = [76, 149, 29, 140, 58] := by
  decide +kernel

/-- Settles O53: the sums of the grays evaluated once for each level, and the luminance as their floor. -/
theorem lumGrays : Obligations.LumGrays :=
  ⟨lum_colours, fun g => ⟨lum_gray g, graySum_below g, graySum_bounds g⟩⟩

end Sys2Proof.Machine
end

section
/-! PROOFS. The tone curve (42_tone_curve_lut.md): the stages of R220 as functions of a level, the neutral tuple (R222)
and the values of R228. -/

namespace Sys2Proof.Machine

/-! ### The stages of an entry -/

/-- R220 up to the clamp: the biased level i + 128 - t after the contrast step. -/
def toneLevel (k : Tone) (i : Nat) : F64 :=
  fClamp (contrastStep (toneContrast k) (fOfInt ((i : Int) + 128 - (k.thresh.toNat : Int)))) f0 f255

/-- R220's split of a clamped level, scaled back to 0..255. -/
def curvedLevel (m h : BitVec 16) (v : F64) : F64 := fMul (splitStep ⟨0, m, h, 0, false⟩ (fDiv v f255)) f255

theorem lutEntry_eq_rneU8 (k : Tone) (i : Nat) :
    lutEntry k i =
      rneU8 (if k.invert then fSub f255 (curvedLevel k.midtone k.highlight (toneLevel k i))
        else curvedLevel k.midtone k.highlight (toneLevel k i)) := rfl

/-! ### The neutral contrast and the neutral split -/

/-- R220's clamp on every integer level a threshold can give, -127 to 383, so that truncated subtraction says it. -/
theorem fClamp_level : ∀ d : Fin 511,
    fClamp (fOfInt ((d.val : Int) - 127)) f0 f255 = fOfNat (min (d.val - 127) 255) := by decide +kernel

/-- Without the contrast step the level is an integer. -/
theorem toneLevel_of_contrast_zero {k : Tone} {i : Nat} (hc : toneContrast k = 0) (hi : i < 256) :
    toneLevel k i = fOfNat (min (i + 128 - k.thresh.toNat) 255) := by
  have ht : k.thresh.toNat < 256 := k.thresh.isLt
  have hclamp := fClamp_level ⟨i + 255 - k.thresh.toNat, by omega⟩
  have hint : ((i + 255 - k.thresh.toNat : Nat) : Int) - 127 = (i : Int) + 128 - (k.thresh.toNat : Int) := by omega
  have hnat : i + 255 - k.thresh.toNat - 127 = i + 128 - k.thresh.toNat := by omega
  simp only [hint, hnat] at hclamp
  rw [toneLevel, contrastStep, if_pos hc, hclamp]

/-- R222: the neutral split gives back every level, up to a rounding (at 244 to 251) that the entry does not show. -/
theorem rneU8_curvedLevel_neutral : ∀ n : Fin 256,
    rneU8 (curvedLevel 50 50 (fOfNat n)) = BitVec.ofNat 8 n
      ∧ rneU8 (fSub f255 (curvedLevel 50 50 (fOfNat n))) = BitVec.ofNat 8 (255 - n) := by decide +kernel

/-- An entry whose split is neutral is its level, inverted where the tuple says so. -/
theorem lutEntry_of_toneLevel {k : Tone} {i n : Nat} (hm : k.midtone = 50) (hh : k.highlight = 50)
    (hl : toneLevel k i = fOfNat n) (hn : n ≤ 255) :
    lutEntry k i = BitVec.ofNat 8 (if k.invert then 255 - n else n) := by
  obtain ⟨hkept, hinverted⟩ := rneU8_curvedLevel_neutral ⟨n, by omega⟩
  rw [lutEntry_eq_rneU8, hm, hh, hl]
  cases k.invert with
  | false => rw [if_neg Bool.false_ne_true, if_neg Bool.false_ne_true, hkept]
  | true => rw [if_pos rfl, if_pos rfl, hinverted]

/-- With neither contrast nor curve an entry is the biased index, clamped, and inverted where the tuple says so. -/
theorem lutEntry_neutral (t : BitVec 8) (inv : Bool) {i : Nat} (hi : i < 256) :
    lutEntry ⟨0, 50, 50, t, inv⟩ i =
      BitVec.ofNat 8 (if inv then 255 - min (i + 128 - t.toNat) 255 else min (i + 128 - t.toNat) 255) :=
  lutEntry_of_toneLevel rfl rfl (toneLevel_of_contrast_zero rfl hi) (min_le_right _ _)

/-- R222. -/
theorem lutEntry_reset (i : Fin 256) : lutEntry Tone.reset i.val = BitVec.ofNat 8 i.val := by
  have hlevel : min (i.val + 128 - (128 : BitVec 8).toNat) 255 = i.val := by
    show min (i.val + 128 - 128) 255 = i.val
    omega
  rw [Tone.reset, lutEntry_neutral 128 false i.isLt, if_neg Bool.false_ne_true, hlevel]

/-! ### The contrast c = -255 -/

/-- The contrast factor is 0 there, so every level is 128. -/
theorem toneLevel_contrast_neg255 : ∀ i : Fin 256,
    toneLevel ⟨BitVec.ofInt 16 (-255), 50, 50, 128, false⟩ i.val = fOfNat 128 := by decide +kernel

theorem lutEntry_contrast_neg255 (i : Fin 256) :
    lutEntry ⟨BitVec.ofInt 16 (-255), 50, 50, 128, false⟩ i.val = 128 :=
  lutEntry_of_toneLevel rfl rfl (toneLevel_contrast_neg255 i) (by decide)

/-! ### Ties -/

/-- R228: a midtone of 25 halves the levels below the split exactly. -/
theorem curvedLevel_halves :
    [1, 3, 5].map (fun i => curvedLevel 25 50 (fOfNat i)) = [fOfRat 1 2, fOfRat 3 2, fOfRat 5 2] := by decide +kernel

theorem rneU8_halves : [fOfRat 1 2, fOfRat 3 2, fOfRat 5 2].map rneU8 = [0, 2, 2] := by decide +kernel

theorem lutEntry_halves : [1, 3, 5].map (lutEntry ⟨0, 25, 50, 128, false⟩) = [0, 2, 2] := by
  have hentry : ∀ i ∈ [1, 3, 5],
      lutEntry ⟨0, 25, 50, 128, false⟩ i = (rneU8 ∘ fun i => curvedLevel 25 50 (fOfNat i)) i := by
    intro i hi
    have hbound : i ≤ 127 := by simp at hi; omega
    have hlevel : min (i + 128 - (128 : BitVec 8).toNat) 255 = i := by
      show min (i + 128 - 128) 255 = i
      omega
    rw [Function.comp_apply, lutEntry_eq_rneU8, if_neg Bool.false_ne_true,
      toneLevel_of_contrast_zero rfl (by omega), hlevel]
  calc [1, 3, 5].map (lutEntry ⟨0, 25, 50, 128, false⟩)
      = [1, 3, 5].map (rneU8 ∘ fun i => curvedLevel 25 50 (fOfNat i)) := List.map_congr_left hentry
    _ = [0, 2, 2] := by rw [← List.map_map, curvedLevel_halves, rneU8_halves]

/-! ### The rows of R228 -/

/-- The indices of the table of R228. -/
def rowIndices : List Nat := [0, 1, 16, 64, 100, 127, 128, 129, 160, 192, 200, 254, 255]

/-- A row of the table of R228. -/
def lutRow (c : Int) (m h t : Nat) (inv : Bool) : List Nat :=
  rowIndices.map fun i =>
    (lutEntry ⟨BitVec.ofInt 16 c, BitVec.ofNat 16 m, BitVec.ofNat 16 h, BitVec.ofNat 8 t, inv⟩ i).toNat

/-- A row without contrast or curve is the arithmetic of its bias and its inversion. -/
theorem lutRow_neutral {t : Nat} (ht : t < 256) (inv : Bool) :
    lutRow 0 50 50 t inv =
      rowIndices.map fun i => if inv then 255 - min (i + 128 - t) 255 else min (i + 128 - t) 255 := by
  refine List.map_congr_left fun i hi => ?_
  have hi : i < 256 := (by decide : ∀ j ∈ rowIndices, j < 256) i hi
  have htoNat : (BitVec.ofNat 8 t).toNat = t := Nat.mod_eq_of_lt ht
  refine (congrArg BitVec.toNat (lutEntry_neutral (BitVec.ofNat 8 t) inv hi)).trans ?_
  rw [htoNat, BitVec.toNat_ofNat]
  exact Nat.mod_eq_of_lt (by split <;> omega)

/-- The rows with a contrast and the neutral split, where the level's rounding decides. -/
theorem lutRow_contrast :
    lutRow 100 50 50 128 false = [0, 0, 0, 0, 65, 126, 128, 130, 201, 255, 255, 255, 255]
      ∧ lutRow (-100) 50 50 128 false = [72, 72, 79, 100, 116, 128, 128, 128, 142, 156, 160, 183, 184]
      ∧ lutRow 258 50 50 128 false = [0, 0, 0, 0, 0, 0, 128, 255, 255, 255, 255, 255, 255]
      ∧ lutRow (-32768) 50 50 128 false = [255, 255, 240, 192, 156, 129, 128, 127, 96, 64, 56, 2, 1] := by
  decide +kernel

/-- The rows with a midtone or a highlight and no contrast. -/
theorem lutRow_split :
    lutRow 0 25 50 128 false = [0, 0, 8, 32, 50, 64, 128, 129, 160, 192, 200, 254, 255]
      ∧ lutRow 0 50 100 128 false = [0, 1, 16, 64, 100, 127, 128, 130, 192, 255, 255, 255, 255]
      ∧ lutRow 0 0 0 128 false = [0, 0, 0, 0, 0, 0, 128, 128, 128, 128, 128, 128, 128]
      ∧ lutRow 0 100 50 128 false = [0, 2, 32, 128, 200, 254, 128, 129, 160, 192, 200, 254, 255] := by
  decide +kernel

/-- The row in which all five inputs act. -/
theorem lutRow_all_inputs :
    lutRow 50 70 30 140 true = [255, 255, 255, 234, 159, 103, 101, 99, 109, 81, 74, 51, 51] := by decide +kernel

/-- R228's contrast factor at c = 100. -/
theorem contrastFactor_100 :
    fDiv (fOfInt (259 * (100 + 255))) (fOfInt (255 * (259 - 100)))
      = fOfRat 2267727216672833 1000000000000000 := by decide +kernel

/-- Settles O52: the neutral rows and the identity from the split that gives back every level, c = -255 from its
constant level, the ties from the exact halves, and the other rows evaluated in binary64. -/
theorem lutValues : Obligations.LutValues := by
  obtain ⟨hc100, hcNeg100, hc258, hcMin⟩ := lutRow_contrast
  obtain ⟨hm25, hh100, hflat, hm100⟩ := lutRow_split
  exact ⟨lutRow_neutral (t := 128) (by decide) false, lutRow_neutral (t := 128) (by decide) true,
    lutRow_neutral (t := 100) (by decide) false, lutRow_neutral (t := 255) (by decide) false,
    lutRow_neutral (t := 0) (by decide) false, hc100, hcNeg100, lutEntry_contrast_neg255, hc258, hcMin,
    hm25, hh100, hflat, hm100, lutRow_all_inputs, curvedLevel_halves, lutEntry_halves, contrastFactor_100,
    lutEntry_reset⟩

end Sys2Proof.Machine
end

section
/-! PROOFS. R258 (43_dither_dispatch.md section 2): every variant but the passthrough writes only 0 and 255 to MBUF. The
two values come from the comparison of each variant; rows, landings, the ends of the stage and reset keep them. -/

namespace Sys2Proof.Machine

/-! ### Mask values -/

/-- The values of a mask. -/
def IsMask (b : Byte) : Prop := b = 0 ∨ b = 255

/-- A comparison gives a mask value, whichever way it goes. -/
theorem isMask_ite (p : Prop) [Decidable p] : IsMask (if p then 255 else 0) := by
  by_cases hp : p
  · exact .inr (if_pos hp)
  · exact .inl (if_neg hp)

theorem isMask_maskNat (i : Byte) (thr : Nat) : IsMask (maskNat i thr) := isMask_ite _

theorem isMask_maskF (i : Byte) (thr : F64) : IsMask (maskF i thr) := isMask_ite _

theorem isMask_stipple (r : F64) (i : Byte) : IsMask (stipple r i) := isMask_ite _

theorem isMask_quantize (v : F64) : IsMask (quantize v) := isMask_ite _

/-! ### Rows of mask values -/

theorem rowOf_isMask {f : Nat → Byte} (hf : ∀ x, IsMask (f x)) (n : Nat) : ∀ v ∈ rowOf f n, IsMask v := by
  intro v hv
  obtain ⟨x, -, rfl⟩ := List.mem_map.1 hv
  exact hf x

theorem drawRow_isMask {f : F64 → Byte → Byte} (hf : ∀ r i, IsMask (f r i)) (elems : List Byte) (g : Word) :
    ∀ v ∈ (drawRow f elems g).1, IsMask v := by
  induction elems generalizing g with
  | nil => exact List.forall_mem_nil _
  | cons i elems ih => exact List.forall_mem_cons.2 ⟨hf _ i, ih _⟩

theorem serpScan_isMask (damp : F64) (elems : List Byte) (e : F64) : ∀ v ∈ (serpScan damp elems e).1, IsMask v := by
  induction elems generalizing e with
  | nil => exact List.forall_mem_nil _
  | cons i elems ih => exact List.forall_mem_cons.2 ⟨isMask_quantize _, ih _⟩

/-- An element of a diffuser appends one quantized value to the row so far. -/
theorem diffusePixel_isMask (shares : Byte → F64 → List Share) (tbuf : List (List Byte)) (width height y : Nat)
    (st : List Byte × List (List F64)) (x : Nat) (h : ∀ v ∈ st.1, IsMask v) :
    ∀ v ∈ (diffusePixel shares tbuf width height y st x).1, IsMask v :=
  List.forall_mem_append.2 ⟨h, List.forall_mem_singleton.2 (isMask_quantize _)⟩

theorem foldl_diffusePixel_isMask (shares : Byte → F64 → List Share) (tbuf : List (List Byte)) (width height y : Nat)
    (xs : List Nat) (st : List Byte × List (List F64)) (h : ∀ v ∈ st.1, IsMask v) :
    ∀ v ∈ (xs.foldl (diffusePixel shares tbuf width height y) st).1, IsMask v := by
  induction xs generalizing st with
  | nil => exact h
  | cons x xs ih => exact ih _ (diffusePixel_isMask shares tbuf width height y st x h)

theorem diffuseRow_isMask (shares : Byte → F64 → List Share) (y : Nat) (s : State) :
    ∀ v ∈ (diffuseRow shares y s).1, IsMask v :=
  foldl_diffusePixel_isMask shares _ _ _ y _ _ (List.forall_mem_nil _)

theorem serpRow_isMask (y : Nat) (s : State) : ∀ v ∈ (serpRow y s).1, IsMask v := by
  intro v hv
  by_cases hy : y % 2 = 0
  · simp only [serpRow, if_pos hy] at hv
    exact serpScan_isMask _ _ _ v hv
  · simp only [serpRow, if_neg hy, List.mem_reverse] at hv
    exact serpScan_isMask _ _ _ v hv

/-! ### MBUF through the stage -/

/-- MBUF holds mask values only. -/
def MbufIsMask (s : State) : Prop := ∀ r ∈ s.bufs.mbuf, ∀ v ∈ r, IsMask v

/-- The world outside does not write MBUF, and reset empties it. -/
theorem lands_mbufIsMask : Lands MbufIsMask MbufIsMask where
  script _ _ h := h
  act ws i s hi h := by
    rw [MbufIsMask, (hostAct_hostOnly ws i s hi).bufs]
    exact h
  reset _ _ _ _ _ _ := List.forall_mem_nil _

theorem carried_mbufIsMask : Carried MbufIsMask MbufIsMask where
  toLands := lands_mbufIsMask
  abandon s h :=
    abandon_sat lands_mbufIsMask lands_mbufIsMask s h (fun _ h => h) (fun _ h => h) (fun _ h => h)
  row _ _ _ h := h

/-- The end of the stage writes no buffer, whether DITHER completes or RUN_FRAME goes on. -/
theorem endDither_mbufIsMask (s : State) (h : MbufIsMask s) : (endDither s).Sat MbufIsMask MbufIsMask := by
  unfold endDither
  split
  · exact sat_andThen (betweenStages_sat carried_mbufIsMask (mbufDone s) h) fun _ h => h
  · exact thenComplete_sat lands_mbufIsMask (f := .on (mbufDone s)) h fun s1 h1 =>
      complete_sat lands_mbufIsMask lands_mbufIsMask s1 h1 fun _ h => h

/-- A variant empties MBUF and appends its rows: it leaves mask values when its rows are made of them and neither they
nor what it sets up touch the buffers. -/
theorem runStyle_mbufIsMask {setUp : State → State} {row : Nat → State → List Byte × State} {s t : State}
    (hset : ∀ s, (setUp s).bufs = s.bufs) (hbufs : ∀ y s, (row y s).2.bufs = s.bufs)
    (hrow : ∀ y s, ∀ v ∈ (row y s).1, IsMask v) (ht : runStyle setUp row s = .next t) : MbufIsMask t := by
  refine sat_out (sat_andThen (pureRows_sat carried_mbufIsMask .dither _ _ ?rows _ ?start) endDither_mbufIsMask)
    (fun _ h => h) ht
  case rows =>
    intro y s1 h1
    have hmbuf : (row y s1).2.bufs.mbuf = s1.bufs.mbuf := by rw [hbufs]
    refine List.forall_mem_append.2 ⟨?_, List.forall_mem_singleton.2 (hrow y s1)⟩
    rw [hmbuf]
    exact h1
  case start =>
    rw [MbufIsMask, hset]
    exact List.forall_mem_nil _

/-! ### The kinds of variant -/

theorem runPointwise_mbufIsMask {f : State → Nat → Nat → Byte → Byte} {s t : State}
    (hf : ∀ s x y i, IsMask (f s x y i)) (ht : runPointwise f s = .next t) : MbufIsMask t :=
  runStyle_mbufIsMask (fun _ => rfl) (fun _ _ => rfl) (fun y s => rowOf_isMask (fun x => hf s x y _) _) ht

theorem runRandom_mbufIsMask {f : F64 → Byte → Byte} {s t : State} (hf : ∀ r i, IsMask (f r i))
    (ht : runRandom f s = .next t) : MbufIsMask t :=
  runStyle_mbufIsMask (fun _ => rfl) (fun _ _ => rfl) (fun _ _ => drawRow_isMask hf _ _) ht

/-- The rows of a diffuser, whatever shares it passes on. -/
theorem runStyle_diffuseRow_mbufIsMask {shares : State → Byte → F64 → List Share} {s t : State}
    (ht : runStyle initAcc (fun y s => diffuseRow (shares s) y s) s = .next t) : MbufIsMask t :=
  runStyle_mbufIsMask (setUp := initAcc) (fun _ => rfl) (fun _ _ => rfl)
    (fun y s => diffuseRow_isMask (shares s) y s) ht

theorem runKernel_mbufIsMask {k : Kernel} {s t : State} (ht : runKernel k s = .next t) : MbufIsMask t :=
  runStyle_diffuseRow_mbufIsMask (shares := fun s => kernelShares k (bleedFactor s)) ht

theorem execSfcRiemersma_mbufIsMask {s t : State} (ht : execSfcRiemersma s = .next t) : MbufIsMask t :=
  runStyle_mbufIsMask (setUp := fun s => { s with diff := { s.diff with serpE := some f0 } }) (fun _ => rfl)
    (fun _ _ => rfl) serpRow_isMask ht

theorem runWave_mbufIsMask {shape : Shape} {axis : Axis} {s t : State} (ht : runWave shape axis s = .next t) :
    MbufIsMask t :=
  runPointwise_mbufIsMask (fun _ _ _ _ => isMask_maskF _ _) ht

/-- Settles O34: each variant is a pointwise, a random or a diffusing one, and each kind takes its values from a
comparison. -/
theorem maskBinary : Obligations.MaskBinary := by
  intro i s t hi hpass ht
  show MbufIsMask t
  cases i with
  | nop | runFrame | buildLut | sample | tonemap | dither | depth | palette | upscale | dumpIbuf | dumpTbuf | dumpMbuf
  | dumpDbuf | dumpCbuf | illegalCmd => cases hi
  | passthrough c => exact absurd rfl (hpass c)
  | edFloydSteinberg | edAtkinson | edJjn | edStucki | edBurkes | edSierra | edSierra2 | edSierraLite =>
    exact runKernel_mbufIsMask ht
  | vcOstromoukhov => exact runStyle_diffuseRow_mbufIsMask (shares := fun _ => vcShares) ht
  | sfcRiemersma => exact execSfcRiemersma_mbufIsMask ht
  | ordBayer | ordKnoll | linesH | linesV | linesD | patChecker | patGrid | patGradient =>
    exact runPointwise_mbufIsMask (fun _ _ _ _ => isMask_maskNat _ _) ht
  | noiseBlue =>
    exact runPointwise_mbufIsMask (f := fun _ x y i => maskF i (hashThr Config.sin64 x y))
      (fun _ _ _ _ => isMask_maskF _ _) ht
  | waveSinX | waveSinY | waveSinR | waveSqrX | waveSqrY | waveSqrR => exact runWave_mbufIsMask ht
  | noiseWhite => exact runRandom_mbufIsMask (fun _ _ => isMask_maskF _ _) ht
  | noiseStipple | noiseVoronoi => exact runRandom_mbufIsMask isMask_stipple ht
  | patRandom => exact runRandom_mbufIsMask (fun _ _ => isMask_maskNat _ _) ht

end Sys2Proof.Machine
end

section
/-! PROOFS. The random source (43_dither_dispatch.md R256): xorshift32 keeps the state nonzero, and a draw is exactly
its state over 2^32. The exactness rests on one fact of binary64: a value of 53 significant bits rounds to itself. -/

namespace Sys2Proof.Machine

/-! ### xorshift32 -/

/-- A left shift and XOR lose nothing: the lowest bit set stays. -/
theorem eq_zero_of_xor_shiftLeft {x : Word} {k : Nat} (hk : 0 < k) (h : x ^^^ (x <<< k) = 0) : x = 0 := by
  have hfix : x = x <<< k := BitVec.xor_eq_zero_iff.1 h
  have hbit : ∀ i, x.getLsbD i = false := by
    intro i
    induction i using Nat.strong_induction_on with
    | _ i ih =>
      rw [hfix, BitVec.getLsbD_shiftLeft]
      by_cases hik : i < k
      · simp [hik]
      · rw [ih (i - k) (by omega), Bool.and_false]
  exact BitVec.eq_of_getLsbD_eq fun i _ => by rw [hbit i]; simp

/-- A right shift and XOR lose nothing: the highest bit set stays. -/
theorem eq_zero_of_xor_shiftRight {x : Word} {k : Nat} (hk : 0 < k) (h : x ^^^ (x >>> k) = 0) : x = 0 := by
  have hfix : x = x >>> k := BitVec.xor_eq_zero_iff.1 h
  have hnat : x.toNat = x.toNat / 2 ^ k := by
    conv_lhs => rw [hfix, BitVec.toNat_ushiftRight, Nat.shiftRight_eq_div_pow]
  refine BitVec.eq_of_toNat_eq ?_
  by_contra hne
  have hlt := Nat.div_lt_self (Nat.pos_of_ne_zero hne) (Nat.one_lt_two_pow (Nat.pos_iff_ne_zero.1 hk))
  omega

theorem xorshift_ne_zero {x : Word} (hx : x ≠ 0) : xorshift x ≠ 0 := fun h =>
  hx (eq_zero_of_xor_shiftLeft (k := 13) (by decide) (eq_zero_of_xor_shiftRight (k := 17) (by decide)
    (eq_zero_of_xor_shiftLeft (k := 5) (by decide) h)))

theorem drawn_from_one :
    [1, 2, 3, 4, 5, 6].map (fun n => drawn n 1)
      = [0x00042021, 0x04080601, 0x9DCCA8C5, 0x1255994F, 0x8EF917D1, 0x2C6F5BD0] := by decide +kernel

/-! ### Magnitudes as numbers of units -/

theorem fUnits_subnormal {m : Nat} (h : m < 2 ^ 52) : fUnits m = m := by
  rw [fUnits, if_pos (by unfold fHidden; omega)]

/-- A normal magnitude is its 53-bit integer, scaled by its exponent. The integer 2^53 carries into the
next exponent. -/
theorem fUnits_normal (k : Nat) {m : Nat} (hlo : 2 ^ 52 ≤ m) (hhi : m ≤ 2 ^ 53) :
    fUnits (k * 2 ^ 52 + m) = m * 2 ^ k := by
  rcases Nat.lt_or_eq_of_le hhi with hlt | rfl
  · have hdiv : (k * 2 ^ 52 + m) / fHidden = k + 1 := by unfold fHidden; omega
    have hmod : fHidden + (k * 2 ^ 52 + m) % fHidden = m := by unfold fHidden; omega
    rw [fUnits, if_neg (by omega), hdiv, hmod, Nat.add_sub_cancel, Nat.shiftLeft_eq]
  · have hdiv : (k * 2 ^ 52 + 2 ^ 53) / fHidden = k + 2 := by unfold fHidden; omega
    have hmod : fHidden + (k * 2 ^ 52 + 2 ^ 53) % fHidden = 2 ^ 52 := by unfold fHidden; omega
    rw [fUnits, if_neg (by omega), hdiv, hmod, Nat.shiftLeft_eq, Nat.add_sub_assoc (by decide), Nat.pow_add]
    ring

/-- Magnitude bits count the representable values in their order. -/
theorem fUnits_strictMono : StrictMono fUnits := by
  refine strictMono_nat_of_lt_succ fun m => ?_
  by_cases hm : m < 2 ^ 52
  · have hsucc : fUnits (m + 1) = m + 1 := by
      by_cases hcarry : m + 1 < 2 ^ 52
      · exact fUnits_subnormal hcarry
      · simpa using fUnits_normal 0 (m := m + 1) (by omega) (by omega)
    rw [fUnits_subnormal hm, hsucc]
    exact Nat.lt_succ_self m
  · obtain ⟨k, n, hlo, hhi, rfl⟩ : ∃ k n, 2 ^ 52 ≤ n ∧ n < 2 ^ 53 ∧ m = k * 2 ^ 52 + n :=
      ⟨m / 2 ^ 52 - 1, m % 2 ^ 52 + 2 ^ 52, by omega, by omega, by omega⟩
    rw [fUnits_normal k hlo (by omega), Nat.add_assoc, fUnits_normal k (by omega) (by omega)]
    exact Nat.mul_lt_mul_of_pos_right (Nat.lt_succ_self n) (Nat.two_pow_pos k)

/-! ### Rounding what needs none -/

theorem divRne_mul (q : Nat) {den : Nat} (h : 0 < den) : divRne (q * den) den = q := by
  have hmod : q * den % den = 0 := Nat.mul_mod_left q den
  have hdiv : q * den / den = q := Nat.mul_div_cancel q h
  rw [divRne, hmod, hdiv, if_neg (by omega)]

/-- The highest one bit of a scaled 53-bit integer. -/
theorem fLog2_mul_two_pow {k m : Nat} (hlo : 2 ^ 52 ≤ m) (hhi : m < 2 ^ 53) (hk : k ≤ 2045) :
    fLog2 12 (m * 2 ^ k) = k + 52 := by
  have hbound : m * 2 ^ k < 2 ^ 2 ^ 12 :=
    calc m * 2 ^ k < 2 ^ 53 * 2 ^ k := Nat.mul_lt_mul_of_pos_right hhi (Nat.two_pow_pos k)
      _ = 2 ^ (53 + k) := (Nat.pow_add 2 53 k).symm
      _ ≤ 2 ^ 2 ^ 12 := Nat.pow_le_pow_right (by decide) (by omega)
  rw [fLog2_eq _ hbound, Nat.log2_eq_iff (Nat.mul_ne_zero (by omega) (Nat.two_pow_pos k).ne')]
  constructor
  · rw [Nat.pow_add, Nat.mul_comm]
    exact Nat.mul_le_mul_right _ hlo
  · rw [Nat.add_assoc, Nat.pow_add, Nat.mul_comm (2 ^ k)]
    exact Nat.mul_lt_mul_of_pos_right hhi (Nat.two_pow_pos k)

/-- A quotient of 53 significant bits, in the range of the normal magnitudes, rounds to itself. -/
theorem fRound_normal {k m den : Nat} (hlo : 2 ^ 52 ≤ m) (hhi : m < 2 ^ 53) (hk : k ≤ 2045) (hden : 0 < den) :
    fRound (m * 2 ^ k * den) den = k * 2 ^ 52 + m := by
  have hplace : fLog2 12 (m * 2 ^ k * den / den) - 52 = k := by
    rw [Nat.mul_div_cancel _ hden, fLog2_mul_two_pow hlo hhi hk, Nat.add_sub_cancel]
  have hquot : divRne (m * 2 ^ k * den) (den <<< k) = m := by
    rw [Nat.shiftLeft_eq, Nat.mul_assoc, Nat.mul_comm (2 ^ k)]
    exact divRne_mul m (Nat.mul_pos hden (Nat.two_pow_pos k))
  simp only [fRound, hplace, hquot]
  unfold fHidden fInfMag
  omega

/-! ### Values from a sign and a magnitude -/

theorem fNeg_fMk_false {m : Nat} (h : m < fInfMag) : fNeg (fMk false m) = false := by
  have hbound : m < 2 ^ 63 := by unfold fInfMag at h; omega
  rw [fNeg, fMk, if_neg Bool.false_ne_true, BitVec.getLsbD_ofNat, Nat.testBit_lt_two_pow hbound, Bool.and_false]

/-- The quotient of two finite values, the divisor not zero: one rounding of the exact quotient. -/
theorem fDiv_finite {a b : F64} (ha : fMag a < fInfMag) (hb : fMag b < fInfMag) (hb0 : fMag b ≠ 0) :
    fDiv a b = fMk (fSignXor a b) (fRound (fUnits (fMag a) * fOne) (fUnits (fMag b))) := by
  have hnan : (fIsNaN a || fIsNaN b) = false := by simp [fIsNaN, ha.le, hb.le]
  have hainf : fIsInf a = false := by simp [fIsInf, ha.ne]
  have hbinf : fIsInf b = false := by simp [fIsInf, hb.ne]
  simp only [fDiv, hnan, hainf, hbinf, if_neg hb0, Bool.false_eq_true, if_false]

/-- The order of values with a plus sign is that of their magnitudes. -/
theorem fLe_of_fMag_le {a b : F64} (ha : fNeg a = false) (hb : fNeg b = false) (hbfin : fMag b < fInfMag)
    (hle : fMag a ≤ fMag b) : fLe a b = true := by
  simp [fLe, fIsNaN, fVal, ha, hb, hle, hbfin.le, hle.trans hbfin.le]

theorem one_shiftLeft_add (j k : Nat) : 1 <<< (j + k) = 2 ^ j * 2 ^ k := by
  rw [Nat.shiftLeft_eq, Nat.one_mul, Nat.pow_add]

theorem fOne_eq : fOne = 2 ^ 52 * 2 ^ 1022 := one_shiftLeft_add 52 1022

theorem fOne_pos : 0 < fOne := by decide +kernel

theorem fUnits_fMag_f1 : fUnits (fMag f1) = fOne := by decide +kernel

theorem fUnits_fMag_f2p32 : fUnits (fMag f2p32) = 2 ^ 32 * fOne := by decide +kernel

/-! ### The result of a draw -/

/-- A nonzero word as a 53-bit integer, scaled. -/
theorem exists_normal {n : Nat} (h0 : 0 < n) (hn : n < 2 ^ 32) :
    ∃ k m, k < 32 ∧ 2 ^ 52 ≤ m ∧ m < 2 ^ 53 ∧ n * 2 ^ 52 = m * 2 ^ k := by
  have hlog : n.log2 < 32 := (Nat.log2_lt h0.ne').2 hn
  have hsplit : 2 ^ 52 = 2 ^ n.log2 * 2 ^ (52 - n.log2) := by rw [← Nat.pow_add, Nat.add_sub_cancel' (by omega)]
  refine ⟨n.log2, n * 2 ^ (52 - n.log2), hlog, ?_, ?_, ?_⟩
  · calc 2 ^ 52 = 2 ^ n.log2 * 2 ^ (52 - n.log2) := hsplit
      _ ≤ n * 2 ^ (52 - n.log2) := Nat.mul_le_mul_right _ (Nat.log2_self_le h0.ne')
  · calc n * 2 ^ (52 - n.log2) < 2 ^ (n.log2 + 1) * 2 ^ (52 - n.log2) :=
          Nat.mul_lt_mul_of_pos_right Nat.lt_log2_self (Nat.two_pow_pos _)
      _ = 2 ^ 53 := by rw [← Nat.pow_add]; congr 1; omega
  · rw [Nat.mul_assoc, ← Nat.pow_add, Nat.sub_add_cancel (by omega)]

/-- A word converts exactly. -/
theorem fOfNat_normal {n k m : Nat} (hk : k < 32) (hlo : 2 ^ 52 ≤ m) (hhi : m < 2 ^ 53)
    (hn : n * 2 ^ 52 = m * 2 ^ k) : fOfNat n = fMk false ((k + 1022) * 2 ^ 52 + m) := by
  have hunits : n * fOne = m * 2 ^ (k + 1022) * 1 := by
    rw [fOne_eq, ← Nat.mul_assoc, hn, Nat.mul_assoc, ← Nat.pow_add, Nat.mul_one]
  rw [fOfNat, fOfRat, hunits, fRound_normal hlo hhi (by omega) Nat.one_pos]

/-- The division by 2^32 lowers the exponent and rounds nothing. -/
theorem randOf_normal {x : Word} {k m : Nat} (hk : k < 32) (hlo : 2 ^ 52 ≤ m) (hhi : m < 2 ^ 53)
    (hx : x.toNat * 2 ^ 52 = m * 2 ^ k) : randOf x = fMk false ((k + 990) * 2 ^ 52 + m) := by
  have hfin : (k + 1022) * 2 ^ 52 + m < fInfMag := by unfold fInfMag; omega
  have hmag : fMag (fMk false ((k + 1022) * 2 ^ 52 + m)) = (k + 1022) * 2 ^ 52 + m :=
    fMag_fMk _ _ (by unfold fInfMag at hfin; omega)
  have hsign : fSignXor (fMk false ((k + 1022) * 2 ^ 52 + m)) f2p32 = false := by
    rw [fSignXor, fNeg_fMk_false hfin]
    decide
  have hquot : m * 2 ^ (k + 1022) * fOne = m * 2 ^ (k + 990) * (2 ^ 32 * fOne) := by
    rw [show k + 1022 = k + 990 + 32 from rfl, Nat.pow_add, Nat.mul_assoc, Nat.mul_assoc, Nat.mul_assoc]
  rw [randOf, fOfNat_normal hk hlo hhi hx, fDiv_finite (by rw [hmag]; exact hfin) (by decide) (by decide), hsign, hmag,
    fUnits_normal _ hlo hhi.le, fUnits_fMag_f2p32, hquot,
    fRound_normal hlo hhi (by omega) (Nat.mul_pos (Nat.two_pow_pos 32) fOne_pos)]

/-- R256: the result is x / 2^32 exactly. -/
theorem randOf_exact (x : Word) :
    fNeg (randOf x) = false ∧ fUnits (fMag (randOf x)) * 4294967296 = x.toNat * fOne := by
  by_cases hx : x = 0
  · subst hx
    decide +kernel
  · have h0 : 0 < x.toNat := Nat.pos_of_ne_zero fun h => hx (BitVec.eq_of_toNat_eq h)
    obtain ⟨k, m, hk, hlo, hhi, hscaled⟩ := exists_normal h0 x.isLt
    have hfin : (k + 990) * 2 ^ 52 + m < fInfMag := by unfold fInfMag; omega
    rw [randOf_normal hk hlo hhi hscaled, fMag_fMk _ _ (by unfold fInfMag at hfin; omega), fUnits_normal _ hlo hhi.le]
    refine ⟨fNeg_fMk_false hfin, ?_⟩
    calc m * 2 ^ (k + 990) * 4294967296 = m * 2 ^ k * 2 ^ 1022 := by
          rw [Nat.mul_assoc, Nat.mul_assoc, show 4294967296 = 2 ^ 32 from rfl, ← Nat.pow_add, ← Nat.pow_add]
      _ = x.toNat * fOne := by rw [← hscaled, fOne_eq, Nat.mul_assoc]

/-- A draw is below 1. -/
theorem fMag_randOf_lt (x : Word) : fMag (randOf x) < fMag f1 := by
  obtain ⟨-, hexact⟩ := randOf_exact x
  refine fUnits_strictMono.lt_iff_lt.1 ?_
  rw [fUnits_fMag_f1]
  refine Nat.lt_of_mul_lt_mul_right (a := 4294967296) ?_
  rw [hexact, Nat.mul_comm fOne]
  exact Nat.mul_lt_mul_of_pos_right x.isLt fOne_pos

theorem randOf_mono {x y : Word} (h : x.toNat ≤ y.toNat) : fLe (randOf x) (randOf y) = true := by
  obtain ⟨hxneg, hx⟩ := randOf_exact x
  obtain ⟨hyneg, hy⟩ := randOf_exact y
  have hfin : fMag f1 < fInfMag := by decide
  refine fLe_of_fMag_le hxneg hyneg ((fMag_randOf_lt y).trans hfin) (fUnits_strictMono.le_iff_le.1 ?_)
  refine Nat.le_of_mul_le_mul_right ?_ (by decide : 0 < 4294967296)
  rw [hx, hy]
  exact Nat.mul_le_mul_right fOne h

/-- The ends of the range are the results of the least and the greatest nonzero state. -/
theorem randOf_ends :
    fOfRat 1 4294967296 = randOf 1 ∧ fOfRat 4294967295 4294967296 = randOf 4294967295 := by decide +kernel

/-- R256's decimal of the first draw from the state 1. -/
theorem randOf_first : randOf (drawn 1 1) = fOfRat 6295018829405308 100000000000000000000 := by decide +kernel

/-- Settles O56: the shifts are the definition, each of them loses nothing, a draw is exact, and its range is that of
the nonzero states because exact draws keep their order. -/
theorem randomSource : Obligations.RandomSource := by
  obtain ⟨hleast, hgreatest⟩ := randOf_ends
  refine ⟨fun _ => rfl, fun _ => xorshift_ne_zero, drawn_from_one, randOf_first, randOf_exact, fun x hx => ?_⟩
  have h0 : 0 < x.toNat := Nat.pos_of_ne_zero fun h => hx (BitVec.eq_of_toNat_eq h)
  have htop : x.toNat ≤ 4294967295 := Nat.le_of_lt_succ x.isLt
  rw [hleast, hgreatest]
  exact ⟨randOf_mono h0, randOf_mono htop⟩

end Sys2Proof.Machine
end

section
/-! PROOFS. The Bayer matrices (45_threshold_dither.md R301). That each level stands in a matrix once is proved for
every size 2^k: the recursion reaches each level, and a matrix has as many places as levels. -/

namespace Sys2Proof.Machine

/-! ### The recursion -/

/-- `bayerQ` is R301's `Q` read row by row. -/
theorem bayerQ_eq {x y : Nat} (hx : x < 2) (hy : y < 2) :
    bayerQ x y = (([[0, 2], [3, 1]] : List (List Nat)).getD y []).getD x 0 := by
  interval_cases y <;> interval_cases x <;> rfl

/-- The quadrant of a coordinate. -/
theorem div_two_pow_lt_two {k x : Nat} (h : x < 2 ^ (k + 1)) : x / 2 ^ k < 2 :=
  Nat.div_lt_of_lt_mul (by rwa [← Nat.pow_succ])

theorem bayer_succ {k x y : Nat} (hx : x < 2 ^ (k + 1)) (hy : y < 2 ^ (k + 1)) :
    bayer (k + 1) x y = 4 * bayer k (x % 2 ^ k) (y % 2 ^ k)
      + (([[0, 2], [3, 1]] : List (List Nat)).getD (y / 2 ^ k) []).getD (x / 2 ^ k) 0 := by
  rw [bayer, bayerQ_eq (div_two_pow_lt_two hx) (div_two_pow_lt_two hy)]

/-- The recursion at a place given by its quadrant `(i, j)` and the place `(x, y)` in it. -/
theorem bayer_quadrant {k x y : Nat} (i j : Nat) (hx : x < 2 ^ k) (hy : y < 2 ^ k) :
    bayer (k + 1) (x + 2 ^ k * i) (y + 2 ^ k * j) = 4 * bayer k x y + bayerQ i j := by
  have hpos : 0 < 2 ^ k := Nat.two_pow_pos k
  simp only [bayer, Nat.add_mul_mod_self_left, Nat.add_mul_div_left _ _ hpos, Nat.mod_eq_of_lt hx, Nat.mod_eq_of_lt hy,
    Nat.div_eq_of_lt hx, Nat.div_eq_of_lt hy, Nat.zero_add]

/-! ### Each level once -/

theorem exists_bayerQ {q : Nat} (h : q < 4) : ∃ i < 2, ∃ j < 2, bayerQ i j = q := by
  interval_cases q
  · exact ⟨0, by decide, 0, by decide, rfl⟩
  · exact ⟨1, by decide, 1, by decide, rfl⟩
  · exact ⟨1, by decide, 0, by decide, rfl⟩
  · exact ⟨0, by decide, 1, by decide, rfl⟩

/-- Every level has a place: its remainder by 4 names the quadrant, its quotient the place in it. -/
theorem exists_bayer (k v : Nat) (h : v < 2 ^ k * 2 ^ k) : ∃ x < 2 ^ k, ∃ y < 2 ^ k, bayer k x y = v := by
  induction k generalizing v with
  | zero => exact ⟨0, by decide, 0, by decide, by rw [bayer]; omega⟩
  | succ k ih =>
    have hsize : 2 ^ (k + 1) * 2 ^ (k + 1) = 4 * (2 ^ k * 2 ^ k) := by ring
    have hquot : v / 4 < 2 ^ k * 2 ^ k := by omega
    obtain ⟨x, hx, y, hy, hxy⟩ := ih (v / 4) hquot
    obtain ⟨i, hi, j, hj, hij⟩ := exists_bayerQ (Nat.mod_lt v (show 0 < 4 by decide))
    have hinside : ∀ {a c : Nat}, a < 2 ^ k → c < 2 → a + 2 ^ k * c < 2 ^ (k + 1) := by
      intro a c ha hc
      rw [Nat.pow_succ]
      interval_cases c <;> omega
    refine ⟨x + 2 ^ k * i, hinside hx hi, y + 2 ^ k * j, hinside hy hj, ?_⟩
    rw [bayer_quadrant i j hx hy, hxy, hij, Nat.div_add_mod]

/-- `B(2^k)` as a list of rows. -/
def bayerMatrix (k : Nat) : List (List Nat) :=
  (List.range (2 ^ k)).map fun y => (List.range (2 ^ k)).map fun x => bayer k x y

theorem mem_bayerMatrix_flatten {k v : Nat} :
    v ∈ (bayerMatrix k).flatten ↔ ∃ x < 2 ^ k, ∃ y < 2 ^ k, bayer k x y = v := by
  simp only [bayerMatrix, List.mem_flatten, List.mem_map, List.mem_range]
  constructor
  · rintro ⟨_, ⟨y, hy, rfl⟩, hv⟩
    obtain ⟨x, hx, hxy⟩ := List.mem_map.1 hv
    exact ⟨x, List.mem_range.1 hx, y, hy, hxy⟩
  · rintro ⟨x, hx, y, hy, hxy⟩
    exact ⟨_, ⟨y, hy, rfl⟩, List.mem_map.2 ⟨x, List.mem_range.2 hx, hxy⟩⟩

theorem length_bayerMatrix_flatten (k : Nat) : (bayerMatrix k).flatten.length = 2 ^ k * 2 ^ k := by
  simp [bayerMatrix, List.length_flatten, Function.comp_def]

/-- The levels are among the entries, and there are no more entries than levels. -/
theorem range_perm_bayerMatrix (k : Nat) : (List.range (2 ^ k * 2 ^ k)).Perm (bayerMatrix k).flatten := by
  have hall : List.range (2 ^ k * 2 ^ k) ⊆ (bayerMatrix k).flatten := fun v hv =>
    mem_bayerMatrix_flatten.2 (exists_bayer k v (List.mem_range.1 hv))
  refine (List.nodup_range.subperm hall).perm_of_length_le ?_
  rw [length_bayerMatrix_flatten, List.length_range]

theorem count_bayerMatrix {k v : Nat} (h : v < 2 ^ k * 2 ^ k) : (bayerMatrix k).flatten.count v = 1 := by
  rw [← (range_perm_bayerMatrix k).count_eq]
  exact List.count_eq_one_of_mem List.nodup_range (List.mem_range.2 h)

/-! ### The values -/

theorem bayerMatrix_eight :
    bayerMatrix 3 = [[0, 32, 8, 40, 2, 34, 10, 42], [48, 16, 56, 24, 50, 18, 58, 26], [12, 44, 4, 36, 14, 46, 6, 38],
      [60, 28, 52, 20, 62, 30, 54, 22], [3, 35, 11, 43, 1, 33, 9, 41], [51, 19, 59, 27, 49, 17, 57, 25],
      [15, 47, 7, 39, 13, 45, 5, 37], [63, 31, 55, 23, 61, 29, 53, 21]] := by decide

theorem bayerMatrix_sixteen_rows :
    (bayerMatrix 4).getD 0 [] = [0, 128, 32, 160, 8, 136, 40, 168, 2, 130, 34, 162, 10, 138, 42, 170]
      ∧ (bayerMatrix 4).getD 1 [] = [192, 64, 224, 96, 200, 72, 232, 104, 194, 66, 226, 98, 202, 74, 234, 106]
      ∧ (bayerMatrix 4).getD 15 [] = [255, 127, 223, 95, 247, 119, 215, 87, 253, 125, 221, 93, 245, 117, 213, 85] := by
  decide

/-- Settles O54: the recursion and the scaled threshold are the definitions', the matrices' values are computed, and
each level stands once in the matrix of any size. -/
theorem bayerMatrices : Obligations.BayerMatrices := by
  obtain ⟨hrow0, hrow1, hrow15⟩ := bayerMatrix_sixteen_rows
  exact ⟨fun _ _ _ => bayer_succ, rfl, rfl, rfl, bayerMatrix_eight, hrow0, hrow1, hrow15,
    fun _ _ _ => count_bayerMatrix, rfl, fun _ _ _ => rfl, rfl⟩

end Sys2Proof.Machine
end

section
/-! PROOFS. The precheck order (60_exceptions.md R415): each command's list of checks is its column of the table, and a
command past its checks reports nothing or BUS. -/

namespace Sys2Proof.Machine

/-! ### The report through a command -/

/-- ERR_CODE.CODE is `c`. -/
def ReportCode (c : Byte) (s : State) : Prop := s.report.code = c

/-- No error is reported, or BUS. -/
def NoneOrBus (s : State) : Prop := ReportCode 0 s ∨ ReportCode 9 s

/-- The world outside does not write ERR_CODE, and reset clears it. -/
theorem lands_reportCode (c : Byte) : Lands (ReportCode c) NoneOrBus where
  script _ _ h := h
  act ws i s hi h := by
    rw [ReportCode, (hostAct_hostOnly ws i s hi).report]
    exact h
  reset _ _ _ _ _ _ := .inl rfl

theorem carried_reportCode_zero : Carried (ReportCode 0) NoneOrBus where
  toLands := lands_reportCode 0
  abandon s h :=
    abandon_sat (lands_reportCode 0) (lands_reportCode 0) s h (fun _ h => h) (fun _ h => h) fun _ => .inl
  row _ _ _ h := h

theorem raiseError_bus_sat (a : Word) (s : State) : (raiseError .bus a s).Sat (ReportCode 0) NoneOrBus :=
  raiseError_sat (P := ReportCode 9) (E := ReportCode 9) (lands_reportCode 9) (lands_reportCode 9) .bus a s rfl
    (fun _ h => h) (fun _ h => h) (fun _ h => h) fun _ => .inr

theorem engineWrite_report (a : Nat) (v : Byte) (s : State) : (engineWrite a v s).report = s.report := by
  obtain ⟨b, n, u, h⟩ := engineWrite_state a v s
  rw [h]

theorem exists_engineRead_eq (a : Nat) (s : State) : ∃ b n, engineRead a s = (b, { s with free := n }) :=
  ⟨_, _, Prod.ext rfl (engineRead_state a s)⟩

/-- A pixel read changes at most the count of draws. -/
theorem exists_samplePixel_eq (a : Nat) (s : State) : ∃ v n, samplePixel a s = (v, { s with free := n }) := by
  obtain ⟨r, n0, h0⟩ := exists_engineRead_eq a s
  obtain ⟨g, n1, h1⟩ := exists_engineRead_eq (a + 1) { s with free := n0 }
  obtain ⟨b, n2, h2⟩ := exists_engineRead_eq (a + 2) { s with free := n1 }
  obtain ⟨_, n3, h3⟩ := exists_engineRead_eq (a + 3) { s with free := n2 }
  exact ⟨lum r g b, n3, by simp only [samplePixel, h0, h1, h2, h3]⟩

theorem buildIfNeeded_report (s : State) : (buildIfNeeded s).report = s.report := by
  unfold buildIfNeeded
  split
  · exact buildLut_report s
  · rfl

theorem carriedByWrites_reportCode_zero : CarriedByWrites (ReportCode 0) NoneOrBus where
  toLands := lands_reportCode 0
  write a v s _ h := by
    rw [ReportCode, engineWrite_report]
    exact h
  refused a s _ := raiseError_bus_sat a s

/-- A body that reports nothing or BUS still does so once the command completes. -/
theorem thenComplete_reportCode {f : Flow} (hf : f.Sat (ReportCode 0) NoneOrBus) :
    (thenComplete f).Sat (ReportCode 0) NoneOrBus :=
  thenComplete_sat (lands_reportCode 0) hf fun s h =>
    complete_sat (lands_reportCode 0) (lands_reportCode 0) s h fun _ h => h

/-! ### The report through the stages -/

theorem sampleRow_reportCode (as : List Nat) (row : List Byte) (s : State) (h : ReportCode 0 s) :
    (sampleRow as row s).Sat (ReportCode 0) NoneOrBus := by
  induction as generalizing row s with
  | nil => exact h
  | cons a as ih =>
    unfold sampleRow
    split
    · trivial
    · split
      · exact raiseError_bus_sat _ s
      · obtain ⟨v, n, hread⟩ := exists_samplePixel_eq a s
        rw [hread]
        exact sat_andThen (land_sat (lands_reportCode 0) [] { s with free := n } h) fun s1 h1 => ih _ s1 h1

theorem stageSample_reportCode (s : State) (h : ReportCode 0 s) : (stageSample s).Sat (ReportCode 0) NoneOrBus := by
  have latched : (land [] (latchDims (snapWork s) s)).Sat (ReportCode 0) NoneOrBus :=
    land_sat (lands_reportCode 0) [] _ h
  refine sat_andThen (sat_andThen latched fun s1 h1 => ?_) fun _ h2 => h2
  exact rowLoop_sat carried_reportCode_zero .sample noWrites _ (fun y s2 h2 => sampleRow_reportCode _ [] s2 h2) _
    (clearForSample s1) h1

theorem zeroAreaSample_reportCode (s : State) (h : ReportCode 0 s) :
    (zeroAreaSample s).Sat (ReportCode 0) NoneOrBus :=
  sat_andThen (land_sat (lands_reportCode 0) [] (latchDims 0 s) h) fun _ h1 => h1

theorem stageTonemap_reportCode (s : State) (h : ReportCode 0 s) : (stageTonemap s).Sat (ReportCode 0) NoneOrBus := by
  have built : (land [] (buildIfNeeded s)).Sat (ReportCode 0) NoneOrBus := by
    refine land_sat (lands_reportCode 0) [] _ ?_
    rw [ReportCode, buildIfNeeded_report]
    exact h
  refine sat_andThen (sat_andThen built fun s1 h1 => ?_) fun _ h2 => h2
  exact pureRows_sat carried_reportCode_zero .tonemap _ tonemapRow (fun _ _ h2 => h2) (startTonemap s1) h1

theorem stageDepth_reportCode (s : State) (h : ReportCode 0 s) : (stageDepth s).Sat (ReportCode 0) NoneOrBus :=
  sat_andThen (pureRows_sat carried_reportCode_zero .depth _ depthRow (fun _ _ h1 => h1) (startDepth s) h)
    fun _ h1 => h1

theorem stagePalette_reportCode (s : State) (h : ReportCode 0 s) : (stagePalette s).Sat (ReportCode 0) NoneOrBus :=
  sat_andThen (pureRows_sat carried_reportCode_zero .palette _ paletteRow (fun _ _ h1 => h1) (startPalette s) h)
    fun _ h1 => h1

theorem writingRows_reportCode (stage : Stage) (n : Nat) (writes : Nat → State → List PortWrite) (s : State)
    (h : ReportCode 0 s) : (writingRows stage n writes s).Sat (ReportCode 0) NoneOrBus :=
  writingRows_sat carried_reportCode_zero carriedByWrites_reportCode_zero stage n writes s h

/-- The stages of RUN_FRAME to the dispatch of the dither variant. -/
theorem frameHead_reportCode (s : State) (h : ReportCode 0 s) : (frameHead s).Sat (ReportCode 0) NoneOrBus := by
  have between (s1 : State) (h1 : ReportCode 0 s1) := betweenStages_sat carried_reportCode_zero s1 h1
  have sampled := sat_andThen (stageSample_reportCode s h) between
  have toned := sat_andThen (sat_andThen sampled stageTonemap_reportCode) between
  exact sat_andThen toned fun _ h1 => h1

/-! ### The columns of the table -/

/-- What the precheck reports of a list of checks: the code and the address of the first that fails. -/
def reported (cs : List Check) : Option (ErrKind × Word) := (firstFail cs).map fun c => (c.kind, c.addr)

theorem reported_nil : reported [] = none := rfl

theorem reported_cons (c : Check) (cs : List Check) :
    reported (c :: cs) = if c.fails = true then some (c.kind, c.addr) else reported cs := by
  rw [reported, firstFail_cons]
  split <;> rfl

theorem reported_eq_none_iff (cs : List Check) : reported cs = none ↔ firstFail cs = none := Option.map_eq_none_iff

theorem reported_eq_some {cs : List Check} {k : ErrKind} {a : Word} (h : reported cs = some (k, a)) :
    ∃ c, firstFail cs = some c ∧ c.kind = k ∧ c.addr = a := by
  obtain ⟨c, hc, he⟩ := Option.map_eq_some_iff.1 h
  obtain ⟨hk, ha⟩ := Prod.mk.inj he
  exact ⟨c, hc, hk, ha⟩

/-- A check at the head, its failure put as a statement about the live registers. -/
theorem reported_cons_of_iff {c : Check} {p : Prop} [Decidable p] (h : c.fails = true ↔ p) (cs : List Check) :
    reported (c :: cs) = if p then some (c.kind, c.addr) else reported cs :=
  (reported_cons c cs).trans (if_congr h rfl rfl)

theorem reported_checkSeq (v : Bool) (cs : List Check) :
    reported (checkSeq v :: cs) = if v = false then some (.seq, 0) else reported cs :=
  reported_cons_of_iff (c := checkSeq v) (by simp [checkSeq]) cs

theorem reported_checkRange (base : Word) (size : Nat) (cs : List Check) :
    reported (checkRange base size :: cs)
      = if 4294967296 < base.toNat + size then some (.cfgRange, base) else reported cs :=
  reported_cons_of_iff (c := checkRange base size) decide_eq_true_iff cs

theorem reported_checkScale (w : Word) (s : State) (cs : List Check) :
    reported (checkScale (accept w s) :: cs) = if cfgScale s = 0 then some (.cfgScale, 0) else reported cs :=
  reported_cons_of_iff (c := checkScale (accept w s)) decide_eq_true_iff cs

theorem reported_checkDim (w : Word) (s : State) (cs : List Check) :
    reported (checkDim (accept w s) :: cs)
      = if s.plat.maxWW.toNat < nextW s ∨ s.plat.maxWH.toNat < nextH s then some (.cfgDim, 0) else reported cs :=
  reported_cons_of_iff (c := checkDim (accept w s))
    ((Bool.or_eq_true _ _).to_iff.trans (or_congr decide_eq_true_iff decide_eq_true_iff)) cs

theorem reported_checkPscale (w : Word) (s : State) (cs : List Check) :
    reported (checkPscale (accept w s) :: cs) = if s.cfg.pscale = 0 then some (.cfgPscale, 0) else reported cs :=
  reported_cons_of_iff (c := checkPscale (accept w s))
    (decide_eq_true_iff.trans (BitVec.toNat_inj (x := s.cfg.pscale) (y := 0))) cs

theorem reported_checkPalette (w : Word) (s : State) (cs : List Check) :
    reported (checkPalette (accept w s) :: cs)
      = if s.cfg.palCount.toNat = 0 ∨ 16 < s.cfg.palCount.toNat then some (.cfgPalette, 0) else reported cs :=
  reported_cons_of_iff (c := checkPalette (accept w s))
    ((Bool.or_eq_true _ _).to_iff.trans (or_congr decide_eq_true_iff decide_eq_true_iff)) cs

/-- A contrast at the pole counts where a build is needed. -/
theorem reported_checkContrast {needed : Bool} {p : Prop} [Decidable p] (w : Word) (s : State)
    (h : needed = true ↔ p) (cs : List Check) :
    reported (checkContrast needed (accept w s) :: cs) = if p ∧ pole s then some (.cfgContrast, 0) else reported cs :=
  reported_cons_of_iff (c := checkContrast needed (accept w s))
    ((Bool.and_eq_true _ _).to_iff.trans (and_congr h decide_eq_true_iff)) cs

/-- A build is needed exactly where the LUT does not hold the live tone tuple's table (42_tone_curve_lut.md R223). -/
theorem buildNeeded_accept (w : Word) (s : State) : buildNeeded (accept w s) = true ↔ ¬lutFits s := by
  rw [lutFits, not_and_or, Bool.not_eq_true]
  exact (Bool.or_eq_true _ _).to_iff.trans (or_congr (Bool.not_eq_true' _).to_iff decide_eq_true_iff)

/-- The zero-area test takes the checks of a column away (41_downsampler.md R202). -/
theorem reported_unless_zeroArea (w : Word) (s : State) (cs : List Check) :
    reported (if zeroArea (accept w s) then [] else cs) = if cfgW s = 0 ∨ cfgH s = 0 then none else reported cs := by
  rw [apply_ite reported, reported_nil]
  exact if_congr (zeroArea_iff _) rfl rfl

/-! ### A command and its column -/

/-- R415 for one command: its column's error ends it, and where there is none it reports nothing or BUS. -/
def FollowsTable (i : Instr) (s : State) : Prop :=
  (∀ k a, tableError i s = some (k, a) → exec i s = .next (afterError k (opcodeOf i) a s))
    ∧ (tableError i s = none → ∀ t, exec i s = .next t → NoneOrBus t)

/-- A command follows the table when its checks are its column and its body reports nothing but BUS. -/
theorem followsTable_of_runCommand {i : Instr} {s : State} {w : Word} {checks : State → List Check}
    {regions : State → List Region} {body : State → Flow} (hs : s.script = [])
    (hexec : exec i s = runCommand w checks regions body s) (hop : opcodeOf i = cmdOp w)
    (hcolumn : reported (checks (accept w s)) = tableError i s)
    (hbody : (body (accept w s)).Sat (ReportCode 0) NoneOrBus) : FollowsTable i s := by
  refine ⟨fun k a he => ?fails, fun he t ht => ?passes⟩
  case fails =>
    obtain ⟨c, hc, rfl, rfl⟩ := reported_eq_some (hcolumn.trans he)
    rw [hexec, hop, runCommand_fails w checks regions body s hs c hc, failed_accept]
  case passes =>
    have hnone := (reported_eq_none_iff _).1 (hcolumn.trans he)
    rw [hexec, runCommand_quiet w checks regions body s hs, hnone] at ht
    dsimp only at ht
    split at ht
    · cases ht
    · exact sat_out hbody (fun _ => .inl) ht

/-- A DUMP's checks are the DUMP column for its buffer. -/
theorem followsTable_of_runDump {i : Instr} {s : State} {w : Word} {valid : Valid → Bool} {e : Nat}
    {elem : State → Nat → Nat → List Byte} (hs : s.script = []) (hexec : exec i s = runDump w valid e elem s)
    (hop : opcodeOf i = cmdOp w) (hcolumn : tableError i s = tableError.tableDump s (valid s.valid) e) :
    FollowsTable i s := by
  refine followsTable_of_runCommand hs hexec hop ?_
    (thenComplete_reportCode (writingRows_reportCode .dump _ _ (accept w s) rfl))
  rw [hcolumn, reported_checkSeq, reported_checkRange, reported_nil]
  rfl

theorem followsTable_sample (s : State) (hs : s.script = []) : FollowsTable .sample s := by
  refine followsTable_of_runCommand hs rfl rfl ?column (thenComplete_reportCode ?body)
  case column =>
    rw [reported_unless_zeroArea, sampleChecks, reported_checkScale, reported_checkDim, reported_checkRange,
      reported_nil]
    rfl
  case body =>
    split
    · exact zeroAreaSample_reportCode _ rfl
    · exact stageSample_reportCode _ rfl

theorem followsTable_runFrame (s : State) (hs : s.script = []) (hm : NotMidFrame s) : FollowsTable .runFrame s := by
  refine followsTable_of_runCommand hs (execRunFrame_of_notMidFrame hm) rfl ?column ?body
  case column =>
    rw [reported_unless_zeroArea, frameChecks, sampleChecks, List.cons_append, List.cons_append, List.cons_append,
      List.nil_append, reported_checkScale, reported_checkDim, reported_checkRange, reported_checkRange,
      reported_checkContrast _ _ (buildNeeded_accept _ s), reported_checkPscale, reported_checkPalette, reported_nil]
    rfl
  case body =>
    split
    · exact thenComplete_reportCode (zeroAreaSample_reportCode _ rfl)
    · exact frameHead_reportCode _ rfl

theorem followsTable_tonemap (s : State) (hs : s.script = []) : FollowsTable .tonemap s := by
  refine followsTable_of_runCommand hs rfl rfl ?_ (thenComplete_reportCode (stageTonemap_reportCode _ rfl))
  rw [reported_checkSeq, reported_checkContrast _ _ (buildNeeded_accept _ s), reported_nil]
  rfl

theorem followsTable_dither (s : State) (hs : s.script = []) : FollowsTable .dither s := by
  refine followsTable_of_runCommand hs rfl rfl ?_ ((sat_on (ReportCode 0) NoneOrBus (dispatchDither _)).2 rfl)
  rw [reported_checkSeq, reported_checkPscale, reported_nil]
  rfl

theorem followsTable_depth (s : State) (hs : s.script = []) : FollowsTable .depth s := by
  refine followsTable_of_runCommand hs rfl rfl ?_ (thenComplete_reportCode (stageDepth_reportCode _ rfl))
  rw [reported_checkSeq, reported_nil]
  rfl

theorem followsTable_palette (s : State) (hs : s.script = []) : FollowsTable .palette s := by
  refine followsTable_of_runCommand hs rfl rfl ?_ (thenComplete_reportCode (stagePalette_reportCode _ rfl))
  rw [reported_checkSeq, reported_checkPalette, reported_nil]
  rfl

theorem followsTable_upscale (s : State) (hs : s.script = []) : FollowsTable .upscale s := by
  refine followsTable_of_runCommand hs rfl rfl ?_
    (thenComplete_reportCode (writingRows_reportCode .upscale _ _ _ rfl))
  rw [reported_checkSeq, reported_checkRange, reported_nil]
  rfl

theorem followsTable_buildLut (s : State) (hs : s.script = []) : FollowsTable .buildLut s := by
  refine followsTable_of_runCommand hs rfl rfl ?column (thenComplete_reportCode (f := .on (buildLut _)) ?body)
  case column => exact reported_cons_of_iff (c := checkContrast true (accept 0x02 s)) decide_eq_true_iff []
  case body => exact congrArg Report.code (buildLut_report (accept 0x02 s))

theorem followsTable_nop (s : State) (hs : s.script = []) : FollowsTable .nop s := by
  refine followsTable_of_runCommand (checks := fun _ => []) (body := fun s => thenComplete (.on s)) hs rfl rfl rfl ?_
  exact thenComplete_reportCode (f := .on (accept 0x00 s)) rfl

theorem followsTable_illegalCmd (w : Word) (s : State) (hs : s.script = []) : FollowsTable (.illegalCmd w) s := by
  refine followsTable_of_runCommand (checks := fun _ => [⟨true, .illegalCmd, 0⟩]) (regions := noRegions) (body := .on)
    hs rfl rfl rfl ?_
  exact (sat_on (ReportCode 0) NoneOrBus (accept w s)).2 rfl

theorem followsTable_of_isCommand {i : Instr} {s : State} (hi : isCommand i = true) (hs : s.script = [])
    (hm : NotMidFrame s) : FollowsTable i s := by
  cases i with
  | nop => exact followsTable_nop s hs
  | runFrame => exact followsTable_runFrame s hs hm
  | buildLut => exact followsTable_buildLut s hs
  | sample => exact followsTable_sample s hs
  | tonemap => exact followsTable_tonemap s hs
  | dither => exact followsTable_dither s hs
  | depth => exact followsTable_depth s hs
  | palette => exact followsTable_palette s hs
  | upscale => exact followsTable_upscale s hs
  | dumpIbuf | dumpTbuf | dumpMbuf | dumpDbuf | dumpCbuf => exact followsTable_of_runDump hs rfl rfl rfl
  | illegalCmd w => exact followsTable_illegalCmd w s hs
  | edFloydSteinberg | edAtkinson | edJjn | edStucki | edBurkes | edSierra | edSierra2 | edSierraLite | ordBayer
  | ordKnoll | linesH | linesV | linesD | noiseBlue | noiseWhite | noiseStipple | noiseVoronoi | waveSinX | waveSinY
  | waveSinR | waveSqrX | waveSqrY | waveSqrR | patChecker | patGrid | patRandom | patGradient | vcOstromoukhov
  | sfcRiemersma | passthrough => cases hi

/-- Settles O8: each command follows its column of the table, and RUN_FRAME on a zero-area source is R202's. -/
theorem precheckOrder : Obligations.PrecheckOrder := by
  intro i s hi hs hm
  obtain ⟨hfails, hpasses⟩ := followsTable_of_isCommand hi hs hm
  refine ⟨hfails, hpasses, ?_⟩
  rintro rfl hz
  exact ⟨afterZeroArea s, exec_runFrame_zeroArea s hs hz hm, rfl, rfl, rfl⟩

end Sys2Proof.Machine
end

section
/-! PROOFS. Reset (70_reset_and_hazards.md R440 to R442): a reset leaves the power-on state, but for the LUT RAM and for
what is outside the block, and no register of the reset table reads either. -/

namespace Sys2Proof.Machine

/-! ### The state an assertion of reset leaves -/

/-- The power-on state with the LUT RAM `ram` and, from `s`, what is outside the block: frame memory, the platform's
parameters, the reset line and the model's own records. -/
def resetAround (ram : Vector Byte 256) (s : State) : State :=
  { State.reset with
    lut := { State.reset.lut with ram := ram }
    mem := s.mem
    plat := s.plat
    inReset := s.inReset
    script := s.script
    portLog := s.portLog
    free := s.free }

theorem resetAround_reset : resetAround State.reset.lut.ram State.reset = State.reset := rfl

/-- The block's reset draws the LUT RAM and holds the reset line (R440, R441). -/
theorem blockReset_eq_resetAround (s : State) :
    blockReset s = resetAround (Config.lutPowerOn s.free) { s with inReset := true, free := s.free + 1 } := rfl

/-- Outside a row in progress no write is left for a reset to perform (R442). -/
theorem hostAct_resetOn_nil (n : Nat) (torn : BitVec 4) (s : State) : hostAct [] (.resetOn n torn) s = blockReset s := by
  cases n with
  | zero => rfl
  | succ n => rfl

/-- With the engine IDLE, the step that an assertion of reset comes in is the reset and nothing else (R440). -/
theorem step_idle_resetOn {s : State} {n : Nat} {torn : BitVec 4} {rest : List HostItem} (hp : s.phase = .idle)
    (hs : s.script = .resetOn n torn :: rest) : step s = .next (blockReset { s with script := rest }) := by
  rw [step_idle_cons hp hs, hostAct_resetOn_nil]
  exact runFetched_idle rfl

/-! ### The registers after reset -/

/-- Whether the reset table (10_state.md R34) gives a register one value: it does but for CAPS0, which is the platform's,
and for the LUT window, whose RAM is unspecified after reset. -/
def hasResetValue : Reg → Bool
  | .caps0 | .lutWin _ => false
  | _ => true

/-- Such a register reads after any reset as it does at power-on. -/
theorem regRead_resetAround {r : Reg} (hr : hasResetValue r = true) (ram : Vector Byte 256) (s : State) :
    (regRead r (resetAround ram s)).1 = (regRead r State.reset).1 := by
  cases r with
  | caps0 => cases hr
  | lutWin j => cases hr
  | _ => rfl

theorem map_regRead_resetAround {rs : List Reg} (hr : ∀ r ∈ rs, hasResetValue r = true) (ram : Vector Byte 256)
    (s : State) :
    rs.map (fun r => (regRead r (resetAround ram s)).1) = rs.map (fun r => (regRead r State.reset).1) :=
  List.map_congr_left fun r hmem => regRead_resetAround (hr r hmem) ram s

/-- R72: the palette at power-on is black but for its entry 1. -/
theorem pal_reset : ∀ k : Fin 16, (Cfg.reset.pal.get k).setWidth 32 = if k = 1 then (0x00FFFFFF : Word) else 0 := by
  decide

/-- Settles O47: the values hold around any outside and any LUT RAM, and the power-on state and every assertion of reset
are of that shape. -/
theorem resetState : Obligations.ResetState := by
  unfold Obligations.ResetState
  intro values
  have hvalues (ram : Vector Byte 256) (s : State) : values (resetAround ram s) :=
    ⟨(map_regRead_resetAround (by decide) ram s).trans rfl, (map_regRead_resetAround (by decide) ram s).trans rfl,
      fun k => (regRead_resetAround (r := .pal k) rfl ram s).trans (pal_reset k), rfl, rfl, rfl, rfl, rfl, rfl⟩
  have hreset (s : State) : values (blockReset s) := by
    rw [blockReset_eq_resetAround]
    exact hvalues _ _
  refine ⟨?_, fun s ws n torn => hreset (writePrefix n torn ws s), fun s t n torn rest hp hs ht => ?_⟩
  · rw [← resetAround_reset]
    exact hvalues _ _
  · rw [step_idle_resetOn hp hs] at ht
    cases ht
    exact ⟨hreset _, rfl, rfl⟩

end Sys2Proof.Machine
end

section
/-! PROOFS. The decoder and the encoder undo each other (30_encoding.md sections 1 and 2), and a step runs what the
decoder gives (10_state.md section 1). -/

namespace Sys2Proof

/-! ### The fields of a command word as numbers -/

theorem cmdOp_toNat (w : Word) : (cmdOp w).toNat = w.toNat % 16 := by simp [cmdOp]

theorem cmdSel_toNat (w : Word) : (cmdSel w).toNat = w.toNat / 16 % 8 := by
  simp [cmdSel, Nat.shiftRight_eq_div_pow]

theorem cmdRsv_toNat (w : Word) : (cmdRsv w).toNat = w.toNat / 128 := by
  have := w.isLt
  simp only [cmdRsv, BitVec.extractLsb'_toNat, Nat.shiftRight_eq_div_pow]
  omega

theorem cmdRsv_eq_zero_iff (w : Word) : cmdRsv w = 0 ↔ w.toNat / 128 = 0 := by
  rw [← cmdRsv_toNat, BitVec.toNat_eq]
  rfl

theorem cmdSel_eq_zero_iff (w : Word) : cmdSel w = 0 ↔ w.toNat / 16 % 8 = 0 := by
  rw [← cmdSel_toNat, BitVec.toNat_eq]
  rfl

theorem cmdOp_eq_nine_iff (w : Word) : cmdOp w = 9 ↔ w.toNat % 16 = 9 := by
  rw [← cmdOp_toNat, BitVec.toNat_eq]
  rfl

/-- A word with RSV 0 is given by its other two fields. -/
theorem eq_ofNat_of_fields {w : Word} {op sel : Nat} (hrsv : cmdRsv w = 0) (hop : (cmdOp w).toNat = op)
    (hsel : (cmdSel w).toNat = sel) : BitVec.ofNat 32 (16 * sel + op) = w := by
  rw [cmdRsv_eq_zero_iff] at hrsv
  rw [cmdOp_toNat] at hop
  rw [cmdSel_toNat] at hsel
  have hw : w.toNat = 16 * sel + op := by omega
  rw [← hw, BitVec.ofNat_toNat, BitVec.setWidth_eq]

/-! ### The catch-all rows -/

/-- R123 on numbers and on the decoder's fields. -/
theorem illegalWord_iff (w : Word) : illegalWord w = true ↔ decodeCmd w = .illegalCmd w := by
  simp only [decodeCmd_eq_illegalCmd_iff, illegalWord, ne_eq, cmdRsv_eq_zero_iff, cmdSel_eq_zero_iff,
    cmdOp_eq_nine_iff, cmdOp_toNat, cmdSel_toNat, Bool.or_eq_true, Bool.and_eq_true, decide_eq_true_eq, or_assoc]

/-! ### Decoding, then encoding -/

theorem encode_decodeDump {w : Word} (hrsv : cmdRsv w = 0) (hop : cmdOp w = 9) : encode (decodeDump w) = .cmd w := by
  have hop' : (cmdOp w).toNat = 9 := by rw [hop]; rfl
  unfold decodeDump
  split
  case h_6 => rfl
  all_goals exact congrArg Encoded.cmd (eq_ofNat_of_fields hrsv hop' ‹_›)

theorem encode_decodeOp {w : Word} (hrsv : cmdRsv w = 0) (hsel : cmdSel w = 0) : encode (decodeOp w) = .cmd w := by
  have hsel' : (cmdSel w).toNat = 0 := by rw [hsel]; rfl
  unfold decodeOp
  split
  case h_10 => rfl
  all_goals
    next hop => exact congrArg Encoded.cmd (eq_ofNat_of_fields hrsv hop hsel')

theorem encode_decodeCmd (w : Word) : encode (decodeCmd w) = .cmd w := by
  unfold decodeCmd
  split
  case isTrue => rfl
  case isFalse hok =>
    have hrsv : cmdRsv w = 0 := not_not.mp (not_or.mp hok).1
    split
    case isTrue hdump => exact encode_decodeDump hrsv hdump
    case isFalse =>
      split
      case isTrue => rfl
      case isFalse hsel => exact encode_decodeOp hrsv (not_not.mp hsel)

/-- R130, R132: all 256 codes compared. -/
theorem encode_decodeStyle : ∀ c : Byte, encode (decodeStyle c) = .style c := by decide

theorem encode_decode (e : Encoded) : encode (decode e) = e := by
  cases e with
  | cmd w => exact encode_decodeCmd w
  | style c => exact encode_decodeStyle c

/-- A catch-all row that the decoder gives carries the word or the code it was given, which is one it may carry. -/
theorem decode_wellFormed (e : Encoded) : (decode e).wellFormed = true := by
  have henc := encode_decode e
  cases hi : decode e with
  | illegalCmd w =>
    rw [hi] at henc
    subst henc
    exact (illegalWord_iff w).2 hi
  | passthrough c =>
    rw [hi] at henc
    subst henc
    exact (decodeStyle_eq_passthrough_iff c).1 hi
  | _ => rfl

/-- Settles O2: the fields of a legal word determine it, the codes are compared one by one, and what the catch-all rows
carry is what the decoder leaves to them. -/
theorem encodeOfDecode : Obligations.EncodeOfDecode := fun e => ⟨encode_decode e, decode_wellFormed e⟩

/-! ### Encoding, then decoding -/

/-- Settles O1: the rows of the tables are read off; the catch-all rows carry what the decoder's tests leave to them. -/
theorem decodeOfEncode : Obligations.DecodeOfEncode := by
  intro i hwf
  cases i with
  | illegalCmd w => exact (illegalWord_iff w).1 hwf
  | passthrough c => exact (decodeStyle_eq_passthrough_iff c).2 hwf
  | _ => rfl

/-- Settles O3: the legal words and codes are read off the tables, the illegal ones by R123. -/
theorem decodeWords : Obligations.DecodeWords := by
  have hillegal : ∀ w ∈ [(0x0A : Word), 0x0F, 0x59, 0x79, 0x11, 0x71, 0x80, 0x80000001], illegalWord w = true := by
    simp [illegalWord]
  exact ⟨rfl, rfl, fun w hw => (illegalWord_iff w).1 (hillegal w hw), rfl, rfl, rfl, rfl⟩

namespace Machine

/-! ### Steps -/

theorem runFetched_of_fetch {s : State} {e : Encoded} (h : fetch s = some e) : runFetched s = exec (decode e) s := by
  simp [runFetched, h]

/-- With the engine RUNNING a step is the engine's, whatever the script holds. -/
theorem step_of_busy {s : State} (h : s.phase ≠ .idle) : step s = runFetched s := by
  unfold step
  split
  case h_1 hidle => exact absurd hidle h
  case h_2 => rfl

theorem step_fetch {s : State} {w : Word} (h : s.phase = .fetch w) : step s = exec (decode (.cmd w)) s := by
  rw [step_of_busy (by simp [h]), runFetched_word h]

theorem step_dither {s : State} {w : Word} {row : Nat} (h : s.phase = .run w .dither row) :
    step s = exec (decode (.style s.snap.style)) s := by
  have hfetch : fetch s = some (.style s.snap.style) := by simp [fetch, h]
  rw [step_of_busy (by simp [h]), runFetched_of_fetch hfetch]

theorem step_run {s : State} {w : Word} {stage : Stage} {row : Nat} (h : s.phase = .run w stage row)
    (hstage : stage ≠ .dither) : step s = exec (decode (.cmd w)) s := by
  have hfetch : fetch s = some (.cmd w) := by
    cases stage with
    | dither => exact absurd rfl hstage
    | _ => simp [fetch, h]
  rw [step_of_busy (by simp [h]), runFetched_of_fetch hfetch]

/-- Settles O6: `fetch` in each phase, and the two phases that `withFetchWord` makes. -/
theorem stepRunsDecoded : Obligations.StepRunsDecoded := by
  refine ⟨fun s w => step_fetch, fun s w row => step_dither, fun s w stage row => step_run, fun s w hw => ?_,
    fun s w hw => ?_⟩
  · exact ⟨decode (.cmd (BitVec.ofNat 32 w)), if_pos ⟨rfl, hw⟩, step_fetch rfl⟩
  · refine ⟨decode (.style (BitVec.ofNat 8 w)), ?_, step_dither rfl⟩
    rw [decodeTableWord, if_neg (by omega), if_pos ⟨rfl, hw⟩]

end Machine

end Sys2Proof
end

section
/-! PROOFS. Carrying a property through a step, with the effect of a landing point as a hypothesis, so that the same
lemmas serve what every script keeps and what holds where nothing lands. First the shared operations, then the stages
and the commands; every later invariant and frame is a use of them. -/

namespace Sys2Proof.Machine

/-! ### Landing points, row boundaries and rows -/

/-- What a property must meet to pass the landing points and the row boundaries of a command: `P` while the command
runs, `Q` of a state the step ends in. -/
structure Passes (P Q : State → Prop) : Prop where
  land : ∀ ws s, P s → (land ws s).Sat P Q
  abandon : ∀ s, P s → (abandon s).Sat P Q
  row : ∀ stage row s, P s → P (atRow stage row s)

theorem Carried.passes {P Q : State → Prop} (C : Carried P Q) : Passes P Q :=
  ⟨fun ws s h => land_sat C.toLands ws s h, C.abandon, C.row⟩

theorem sat_and {P P' Q Q' : State → Prop} {f : Flow} (h : f.Sat P Q) (h' : f.Sat P' Q') :
    f.Sat (fun s => P s ∧ P' s) fun s => Q s ∧ Q' s := by
  cases f with
  | on s => exact ⟨h, h'⟩
  | ended o =>
    cases o with
    | next t => exact ⟨h, h'⟩
    | fault _ => trivial
    | refused _ => trivial

theorem Passes.and {P P' Q Q' : State → Prop} (C : Passes P Q) (C' : Passes P' Q') :
    Passes (fun s => P s ∧ P' s) fun s => Q s ∧ Q' s where
  land ws s h := sat_and (C.land ws s h.1) (C'.land ws s h.2)
  abandon s h := sat_and (C.abandon s h.1) (C'.abandon s h.2)
  row stage row s h := ⟨C.row stage row s h.1, C'.row stage row s h.2⟩

theorem boundary_passes {P Q : State → Prop} (C : Passes P Q) {s : State} (h : P s) : (boundary s).Sat P Q := by
  unfold boundary
  split
  · exact C.abandon s h
  · exact h

theorem betweenStages_passes {P Q : State → Prop} (C : Passes P Q) {s : State} (h : P s) :
    (betweenStages s).Sat P Q :=
  sat_andThen (C.land [] s h) fun _ h1 => boundary_passes C h1

/-- The loop over the rows k .. k + n - 1: `P y` holds before row y. -/
theorem rowLoop_passes {P : Nat → State → Prop} {Q : State → Prop} (C : ∀ k, Passes (P k) Q) (stage : Stage)
    (writes : Nat → State → List PortWrite) (body : Nat → State → Flow) (n k : Nat)
    (hb : ∀ y s, k ≤ y → y < k + n → P y s → (body y s).Sat (P (y + 1)) Q) (s : State) (h : P k s) :
    (rowLoop stage writes body (List.range' k n) s).Sat (P (k + n)) Q := by
  induction n generalizing k s with
  | zero => exact (C k).land [] s h
  | succ n ih =>
    rw [List.range'_succ]
    have hrow : ((land (writes k (atRow stage k s)) (atRow stage k s)).andThen (body k)).Sat (P (k + 1)) Q :=
      sat_andThen ((C k).land _ _ ((C k).row stage k s h)) fun s1 h1 => hb k s1 (Nat.le_refl k) (by omega) h1
    refine sat_andThen hrow fun s1 h1 => sat_andThen ((C (k + 1)).land [] s1 h1) fun s2 h2 => ?_
    cases n with
    | zero => exact h2
    | succ n =>
      have hrest := ih (k + 1) (fun y s hy hlt => hb y s (by omega) (by omega))
      rw [show k + (n + 1 + 1) = k + 1 + (n + 1) by omega]
      exact sat_andThen (boundary_passes (C (k + 1)) h2) fun s3 h3 => hrest s3 h3

theorem rowLoop_range_passes {P : Nat → State → Prop} {Q : State → Prop} (C : ∀ k, Passes (P k) Q) (stage : Stage)
    (writes : Nat → State → List PortWrite) (body : Nat → State → Flow) (n : Nat)
    (hb : ∀ y s, y < n → P y s → (body y s).Sat (P (y + 1)) Q) {s : State} (h : P 0 s) :
    (rowLoop stage writes body (List.range n) s).Sat (P n) Q := by
  have hloop := rowLoop_passes C stage writes body n 0 (fun y s _ hy => hb y s (by omega)) s h
  rwa [Nat.zero_add, ← List.range_eq_range'] at hloop

theorem pureRows_passes {P : Nat → State → Prop} {Q : State → Prop} (C : ∀ k, Passes (P k) Q) (stage : Stage) (n : Nat)
    (row : Nat → State → State) (hr : ∀ y s, P y s → P (y + 1) (row y s)) {s : State} (h : P 0 s) :
    (pureRows stage n row s).Sat (P n) Q :=
  rowLoop_range_passes C stage noWrites _ n (fun y s _ h1 => (sat_on (P (y + 1)) Q (row y s)).2 (hr y s h1)) h

/-- Performing writes: each of them, where it lies in frame memory, keeps `P`, and so does BUS. -/
theorem performWrites_passes {P Q : State → Prop} (C : Passes P Q)
    (hbus : ∀ a s, P s → (raiseError .bus a s).Sat P Q) (ws : List PortWrite)
    (hw : ∀ w ∈ ws, w.addr + w.bytes.length ≤ 4294967296 → ∀ s, P s → P (writeBytes w.addr w.bytes s)) {s : State}
    (h : P s) : (performWrites ws s).Sat P Q := by
  induction ws generalizing s with
  | nil => exact h
  | cons w ws ih =>
    unfold performWrites
    split
    · trivial
    · split
      · exact hbus _ s h
      · exact sat_andThen (C.land ws _ (hw w List.mem_cons_self (by omega) s h))
          fun s1 h1 => ih (fun v hv => hw v (List.mem_cons_of_mem _ hv)) h1

theorem writingRows_passes {P Q : State → Prop} (C : Passes P Q) (hbus : ∀ a s, P s → (raiseError .bus a s).Sat P Q)
    (stage : Stage) (n : Nat) (writes : Nat → State → List PortWrite)
    (hw : ∀ y s, y < n → P s → ∀ w ∈ writes y s, w.addr + w.bytes.length ≤ 4294967296 →
      ∀ s, P s → P (writeBytes w.addr w.bytes s)) {s : State} (h : P s) : (writingRows stage n writes s).Sat P Q :=
  rowLoop_range_passes (P := fun _ => P) (fun _ => C) stage writes _ n
    (fun y s1 hy h1 => performWrites_passes C hbus _ (hw y s1 hy h1) h1) h

theorem thenComplete_passes {P P' Q : State → Prop} (C : Passes P Q) {f : Flow} (hf : f.Sat P Q)
    (hc : ∀ s, P s → (complete s).Sat P' Q) : (thenComplete f).Sat P' Q :=
  sat_andThen (sat_andThen hf fun s h => C.land [] s h) hc

/-- A command from acceptance on: what holds where its checks fail, and where its body runs. -/
theorem runCommand_passes {P P' Q : State → Prop} (C : Passes P Q) {w : Word} {checks : State → List Check}
    {regions : State → List Region} {body : State → Flow} {s t : State} (ha : P (accept w s))
    (hf : ∀ k a s1, P s1 → (raiseError k a s1).Sat P' Q)
    (hb : ∀ s1, P s1 → firstFail (checks s1) = none → (body s1).Sat P' Q) (hP : ∀ s, P' s → Q s)
    (ht : runCommand w checks regions body s = .next t) : Q t := by
  refine sat_out (sat_andThen (C.land [] _ ha) fun s1 h1 => ?_) hP ht
  cases hc : firstFail (checks s1) with
  | some c => exact hf c.kind c.addr s1 h1
  | none =>
    dsimp only
    split
    · trivial
    · exact hb s1 h1 hc

/-! ### The stages, with what holds before, within and after each -/

section
variable {P0 P1 Q : State → Prop} {P : Nat → State → Prop}

/-- The rows of the SAMPLE stage: each reads its pixels and appends their luminances. -/
theorem sampleRow_passes {P' P'' : State → Prop} (C : Passes P' Q)
    (hbus : ∀ a s, P' s → (raiseError .bus a s).Sat P'' Q) (hread : ∀ s n, P' s → P' { s with free := n })
    (as : List Nat) (row : List Byte)
    (hrow : ∀ s r, P' s → r.length = row.length + as.length →
      P'' { s with bufs := { s.bufs with ibuf := s.bufs.ibuf ++ [r] } }) {s : State} (h : P' s) :
    (sampleRow as row s).Sat P'' Q := by
  induction as generalizing row s with
  | nil => exact hrow s row h rfl
  | cons a as ih =>
    unfold sampleRow
    split
    · trivial
    · split
      · exact hbus _ s h
      · obtain ⟨v, n, hpix⟩ := exists_samplePixel_eq a s
        rw [hpix]
        refine sat_andThen (C.land [] _ (hread s n h)) fun s1 h1 => ih _ (fun s r hs hr => hrow s r hs ?_) h1
        rw [hr]
        simp only [List.length_append, List.length_cons, List.length_nil]
        omega

theorem stageSample_passes (C0 : Passes P0 Q) (C : ∀ k, Passes (P k) Q)
    (hbus : ∀ k a s, P k s → (raiseError .bus a s).Sat (P (k + 1)) Q)
    (hread : ∀ k s n, P k s → P k { s with free := n }) {s : State} (h : P0 (latchDims (snapWork s) s))
    (hstart : ∀ s, P0 s → P 0 (clearForSample s))
    (hrow : ∀ k s s' r, P k s → P k s' → r.length = workW s →
      P (k + 1) { s' with bufs := { s'.bufs with ibuf := s'.bufs.ibuf ++ [r] } })
    (hend : ∀ s s', P0 s → P (workH s) s' → P1 { s' with valid := { s'.valid with ibuf := true } }) :
    (stageSample s).Sat P1 Q := by
  have hrows : ((land [] (latchDims (snapWork s) s)).andThen fun s1 =>
      rowLoop .sample noWrites (fun y s => sampleRow ((List.range (workW s)).map fun x => sampleAddr s x y) [] s)
        (List.range (workH s1)) (clearForSample s1)).Sat (fun s' => ∃ s, P0 s ∧ P (workH s) s') Q := by
    refine sat_andThen (C0.land [] _ h) fun s1 h1 => sat_mono (rowLoop_range_passes C .sample noWrites _ _
      (fun y s2 _ h2 => ?_) (hstart s1 h1)) (fun s' h' => ⟨s1, h1, h'⟩) fun _ h' => h'
    exact sampleRow_passes (C y) (hbus y) (hread y) _ [] (fun s' r h' hr => hrow y s2 s' r h2 h' (by simpa using hr)) h2
  exact sat_andThen hrows fun s' ⟨s1, h1, h'⟩ => hend s1 s' h1 h'

theorem stageTonemap_passes (C0 : Passes P0 Q) (C : ∀ k, Passes (P k) Q) {s : State} (h : P0 (buildIfNeeded s))
    (hstart : ∀ s, P0 s → P 0 (startTonemap s)) (hrow : ∀ y s, P y s → P (y + 1) (tonemapRow y s))
    (hend : ∀ s s', P0 s → P (workH s) s' → P1 { s' with valid := { s'.valid with tbuf := true } }) :
    (stageTonemap s).Sat P1 Q := by
  have hrows : ((land [] (buildIfNeeded s)).andThen fun s1 =>
      pureRows .tonemap (workH s1) tonemapRow (startTonemap s1)).Sat (fun s' => ∃ s, P0 s ∧ P (workH s) s') Q :=
    sat_andThen (C0.land [] _ h) fun s1 h1 => sat_mono (pureRows_passes C .tonemap _ tonemapRow hrow (hstart s1 h1))
      (fun s' h' => ⟨s1, h1, h'⟩) fun _ h' => h'
  exact sat_andThen hrows fun s' ⟨s1, h1, h'⟩ => hend s1 s' h1 h'

theorem stageDepth_passes (C : ∀ k, Passes (P k) Q) {s : State} (h : P 0 (startDepth s))
    (hrow : ∀ y s, P y s → P (y + 1) (depthRow y s))
    (hend : ∀ s', P (workH s) s' → P1 { s' with valid := { s'.valid with dbuf := true } }) :
    (stageDepth s).Sat P1 Q :=
  sat_andThen (pureRows_passes C .depth _ depthRow hrow h) hend

theorem stagePalette_passes (C : ∀ k, Passes (P k) Q) {s : State} (h : P 0 (startPalette s))
    (hrow : ∀ y s, P y s → P (y + 1) (paletteRow y s))
    (hend : ∀ s', P (workH s) s' → P1 { s' with valid := { s'.valid with cbuf := true } }) :
    (stagePalette s).Sat P1 Q :=
  sat_andThen (pureRows_passes C .palette _ paletteRow hrow h) hend

end

/-! ### The running word -/

/-- A command word `w` is running. -/
def RunsWord (w : Word) (s : State) : Prop := ∃ stage row, s.phase = .run w stage row

theorem RunsWord.busy {w : Word} {s : State} (h : RunsWord w s) : busy s = true := by
  obtain ⟨stage, row, h⟩ := h
  simp [Machine.busy, h]

theorem RunsWord.runWord {w : Word} {s : State} (h : RunsWord w s) : runWord s = w := by
  obtain ⟨stage, row, h⟩ := h
  simp [Machine.runWord, h]

theorem RunsWord.of_phase_eq {w : Word} {s t : State} (h : RunsWord w s) (ht : t.phase = s.phase) : RunsWord w t := by
  obtain ⟨stage, row, h⟩ := h
  exact ⟨stage, row, ht.trans h⟩

theorem RunsWord.atRow {w : Word} {s : State} (h : RunsWord w s) (stage : Stage) (row : Nat) :
    RunsWord w (atRow stage row s) := by
  obtain ⟨st, r, h⟩ := h
  exact ⟨stage, row, by rw [atRow_run stage row s w st r h]⟩

theorem runsWord_accept (w : Word) (s : State) : RunsWord w (accept w s) := ⟨.start, 0, rfl⟩

theorem lands_true : Lands (fun _ => True) fun _ => True := ⟨fun _ _ _ => trivial, fun _ _ _ _ _ => trivial,
  fun _ _ _ _ _ _ => trivial⟩

/-- A state that runs no frame is IDLE: the word 0 is NOP. -/
theorem busy_of_runsFrame {s : State} (h : runsFrame s = true) : busy s = true := by
  by_contra hb
  have hidle := idle_of_busy s (by simpa using hb)
  simp [runsFrame, runWord, hidle, decodeCmd, decodeOp, cmdOp, cmdRsv, cmdSel] at h

theorem runsFrame_of_phase_eq {s t : State} (ht : t.phase = s.phase) : runsFrame t = runsFrame s := by
  unfold runsFrame runWord
  rw [ht]

/-- What lands does not change which command runs. -/
theorem lands_runsFrame : Lands (fun s => runsFrame s = true) fun _ => True where
  script _ _ h := h
  act ws i s hi h := by
    rw [runsFrame_of_phase_eq ((hostAct_hostOnly ws i s hi).phase (busy_of_runsFrame h))]
    exact h
  reset _ _ _ _ _ _ := trivial

theorem passes_runsFrame : Passes (fun s => runsFrame s = true) fun _ => True where
  land ws s h := land_sat lands_runsFrame ws s h
  abandon s _ :=
    abandon_sat lands_true lands_true s trivial (fun _ _ => trivial) (fun _ _ => trivial) fun _ _ => trivial
  row stage row s h := by
    rw [runsFrame, runWord_atRow]
    exact h

/-! ### The dither variants -/

/-- What every variant is (43_dither_dispatch.md R252 to R257): it sets up the accumulators, and a row of it has the
working width, advances RNG_STATE by one draw per element or not at all, and changes nothing else but the
accumulators. -/
structure IsVariant (i : Instr) (setUp : State → State) (row : Nat → State → List Byte × State) : Prop where
  setUp_eq : ∀ s, ∃ f, setUp s = { s with diff := f }
  row_eq : ∀ y s, ∃ f, (row y s).2 =
    { s with rngState := if draws i = true then drawn (workW s) s.rngState else s.rngState, diff := f }
  row_length : ∀ y s, (row y s).1.length = workW s

theorem length_rowOf {α : Type} (f : Nat → α) (width : Nat) : (rowOf f width).length = width := by simp [rowOf]

theorem length_drawRow (f : F64 → Byte → Byte) (elems : List Byte) (g : Word) :
    (drawRow f elems g).1.length = elems.length := by
  induction elems generalizing g with
  | nil => rfl
  | cons i elems ih => simp [drawRow, ih]

/-- A row of draws advances RNG_STATE by as many draws as it has elements (R257). -/
theorem drawRow_state (f : F64 → Byte → Byte) (elems : List Byte) (g : Word) :
    (drawRow f elems g).2 = drawn elems.length g := by
  induction elems generalizing g with
  | nil => rfl
  | cons i elems ih => exact ih (xorshift g)

theorem length_foldl_diffusePixel (shares : Byte → F64 → List Share) (tbuf : List (List Byte)) (width height y : Nat)
    (xs : List Nat) (st : List Byte × List (List F64)) :
    (xs.foldl (diffusePixel shares tbuf width height y) st).1.length = st.1.length + xs.length := by
  induction xs generalizing st with
  | nil => rfl
  | cons x xs ih =>
    rw [List.foldl_cons, ih]
    simp only [diffusePixel, List.length_append, List.length_cons, List.length_nil]
    omega

theorem length_serpScan (damp : F64) (elems : List Byte) (e : F64) :
    (serpScan damp elems e).1.length = elems.length := by
  induction elems generalizing e with
  | nil => rfl
  | cons i elems ih => simp [serpScan, ih]

theorem isVariant_pointwise {i : Instr} (hi : draws i = false) (f : State → Nat → Nat → Byte → Byte) :
    IsVariant i (fun s => s) fun y s => (rowOf (fun x => f s x y (px s.bufs.tbuf x y)) (workW s), s) where
  setUp_eq s := ⟨s.diff, rfl⟩
  row_eq y s := ⟨s.diff, by simp [hi]⟩
  row_length y s := length_rowOf _ _

theorem isVariant_random {i : Instr} (hi : draws i = true) (f : F64 → Byte → Byte) :
    IsVariant i (fun s => s) fun y s =>
      let out := drawRow f (rowOf (fun x => px s.bufs.tbuf x y) (workW s)) s.rngState
      (out.1, { s with rngState := out.2 }) where
  setUp_eq s := ⟨s.diff, rfl⟩
  row_eq y s := ⟨s.diff, by simp [hi, drawRow_state, length_rowOf]⟩
  row_length y s := (length_drawRow _ _ _).trans (length_rowOf _ _)

theorem isVariant_diffuser {i : Instr} (hi : draws i = false) (shares : State → Byte → F64 → List Share) :
    IsVariant i initAcc fun y s => diffuseRow (shares s) y s where
  setUp_eq s := ⟨_, rfl⟩
  row_eq y s := ⟨_, by rw [if_neg (by simp [hi])]; rfl⟩
  row_length y s := by simp [diffuseRow, length_foldl_diffusePixel]

theorem isVariant_serpentine :
    IsVariant .sfcRiemersma (fun s => { s with diff := { s.diff with serpE := some f0 } }) serpRow where
  setUp_eq s := ⟨_, rfl⟩
  row_eq y s := ⟨(serpRow y s).2.diff, by rw [if_neg (by simp [draws]), serpRow]⟩
  row_length y s := by
    by_cases hy : y % 2 = 0 <;> simp [serpRow, hy, length_serpScan, length_rowOf]

/-- `o` is what a variant of `i` answers on `s`. -/
def RunsVariant (i : Instr) (s : State) (o : Result) : Prop :=
  ∃ setUp row, IsVariant i setUp row ∧ o = runStyle setUp row s

theorem runsVariant_pointwise {i : Instr} (hi : draws i = false) (f : State → Nat → Nat → Byte → Byte) (s : State) :
    RunsVariant i s (runPointwise f s) := ⟨_, _, isVariant_pointwise hi f, rfl⟩

theorem runsVariant_random {i : Instr} (hi : draws i = true) (f : F64 → Byte → Byte) (s : State) :
    RunsVariant i s (runRandom f s) := ⟨_, _, isVariant_random hi f, rfl⟩

theorem runsVariant_kernel {i : Instr} (hi : draws i = false) (k : Kernel) (s : State) :
    RunsVariant i s (runKernel k s) :=
  ⟨_, _, isVariant_diffuser hi fun s => kernelShares k (bleedFactor s), rfl⟩

/-- Every style instruction runs a variant. -/
theorem runsVariant_of_not_isCommand {i : Instr} (hi : isCommand i = false) (s : State) :
    RunsVariant i s (exec i s) := by
  cases i with
  | nop | runFrame | buildLut | sample | tonemap | dither | depth | palette | upscale | dumpIbuf | dumpTbuf | dumpMbuf
  | dumpDbuf | dumpCbuf | illegalCmd => cases hi
  | edFloydSteinberg | edAtkinson | edJjn | edStucki | edBurkes | edSierra | edSierra2 | edSierraLite =>
    exact runsVariant_kernel rfl _ s
  | vcOstromoukhov => exact ⟨_, _, isVariant_diffuser rfl fun _ => vcShares, rfl⟩
  | sfcRiemersma => exact ⟨_, _, isVariant_serpentine, rfl⟩
  | noiseWhite | noiseStipple | noiseVoronoi | patRandom => exact runsVariant_random rfl _ s
  | ordBayer | ordKnoll | linesH | linesV | linesD | noiseBlue | waveSinX | waveSinY | waveSinR | waveSqrX | waveSqrY
  | waveSqrR | patChecker | patGrid | patGradient =>
    simp only [exec, execOrdBayer, execOrdKnoll, execLinesH, execLinesV, execLinesD, execNoiseBlue, execWaveSinX,
      execWaveSinY, execWaveSinR, execWaveSqrX, execWaveSqrY, execWaveSqrR, runWave, execPatChecker, execPatGrid,
      execPatGradient]
    exact runsVariant_pointwise rfl _ s
  | passthrough c => exact runsVariant_pointwise (by simp [draws]) (fun _ _ _ i => i) s

/-- The stage of a variant: `P k` holds when `k` rows are done, `P1` from the end of the stage on. A row of MBUF has
the working width. -/
theorem runStyle_passes {P : Nat → State → Prop} {P1 Q : State → Prop} {i : Instr} {setUp : State → State}
    {row : Nat → State → List Byte × State} (hv : IsVariant i setUp row) (C : ∀ k, Passes (P k) Q) (C1 : Passes P1 Q)
    {s t : State} (hstart : ∀ f, P 0 { s with bufs := { s.bufs with mbuf := [] }, diff := f })
    (hrow : ∀ k s f r, P k s → r.length = workW s → P (k + 1)
      { s with
        bufs := { s.bufs with mbuf := s.bufs.mbuf ++ [r] }
        rngState := if draws i = true then drawn (workW s) s.rngState else s.rngState
        diff := f })
    (hend : ∀ s', P (workH s) s' → P1 (mbufDone s')) (hcomplete : ∀ s, P1 s → (complete s).Sat Q Q)
    (hnext : ∀ s, P1 s → runsFrame s = true → Q (atRow .depth 0 s))
    (ht : runStyle setUp row s = .next t) : Q t := by
  refine sat_out (P := Q) (sat_andThen (pureRows_passes C .dither _ _ (fun y s1 h1 => ?_) ?_) fun s1 h1 => ?_)
    (fun _ h => h) ht
  · obtain ⟨f, hf⟩ := hv.row_eq y s1
    dsimp only
    rw [hf]
    exact hrow y s1 f _ h1 (hv.row_length y s1)
  · obtain ⟨f, hf⟩ := hv.setUp_eq { s with bufs := { s.bufs with mbuf := [] } }
    rw [hf]
    exact hstart f
  · have hdone := hend s1 h1
    unfold endDither
    split
    · rename_i hr
      have hframe := sat_mono (betweenStages_passes (C1.and passes_runsFrame) ⟨hdone, hr⟩) (fun _ h => h) fun _ h => h.1
      exact sat_andThen hframe fun s2 ⟨h2, hr2⟩ => hnext s2 h2 hr2
    · exact thenComplete_passes C1 (f := .on (mbufDone s1)) hdone hcomplete

end Sys2Proof.Machine
end

section
/-! PROOFS. From the stages to the commands and to a step: what a property must meet to hold after every command that
starts from acceptance, after the tail of a RUN_FRAME, after a dither variant, and after a step. -/

namespace Sys2Proof.Machine

/-! ### A property that the block's own progress does not touch -/

/-- What a property must meet to pass the body of a command: the working buffers, their valid bits and the count of
draws do not matter to it, and the endings lead to `Q`. -/
structure Bodies (P Q : State → Prop) : Prop extends Passes P Q where
  inner : ∀ s v b n, P s → P { s with valid := v, bufs := b, free := n }
  fails : ∀ k a s, P s → (raiseError k a s).Sat (fun _ => False) Q
  completes : ∀ s, P s → (complete s).Sat Q Q

namespace Bodies

variable {P Q : State → Prop}

theorem bus (B : Bodies P Q) {P' : State → Prop} (a : Word) (s : State) (h : P s) : (raiseError .bus a s).Sat P' Q :=
  sat_mono (B.fails .bus a s h) (fun _ => False.elim) fun _ h => h

theorem and {P' Q' : State → Prop} (B : Bodies P Q) (B' : Bodies P' Q') :
    Bodies (fun s => P s ∧ P' s) fun s => Q s ∧ Q' s where
  toPasses := B.toPasses.and B'.toPasses
  inner s v b n h := ⟨B.inner s v b n h.1, B'.inner s v b n h.2⟩
  fails k a s h := sat_mono (sat_and (B.fails k a s h.1) (B'.fails k a s h.2)) (fun _ h => h.1) fun _ h => h
  completes s h := sat_and (B.completes s h.1) (B'.completes s h.2)

theorem thenComplete (B : Bodies P Q) {f : Flow} (hf : f.Sat P Q) : (thenComplete f).Sat Q Q :=
  thenComplete_passes B.toPasses hf B.completes

theorem stageSample (B : Bodies P Q) (hlatch : ∀ s d, P s → P { s with dims := d }) {s : State} (h : P s) :
    (stageSample s).Sat P Q :=
  stageSample_passes (P0 := P) (P := fun _ => P) B.toPasses (fun _ => B.toPasses) (fun _ a s => B.bus a s)
    (fun _ s n => B.inner s s.valid s.bufs n) (hlatch s _ h)
    (fun s => B.inner s _ _ s.free) (fun _ _ s' _ _ h' _ => B.inner s' s'.valid _ s'.free h')
    fun _ s' _ => B.inner s' _ s'.bufs s'.free

theorem zeroAreaSample (B : Bodies P Q) (hlatch : ∀ s d, P s → P { s with dims := d }) {s : State} (h : P s) :
    (zeroAreaSample s).Sat P Q :=
  sat_andThen (B.land [] _ (hlatch s _ h)) fun s1 h1 => B.inner s1 _ _ s1.free h1

theorem stageTonemap (B : Bodies P Q) {s : State} (h : P (buildIfNeeded s)) : (stageTonemap s).Sat P Q :=
  stageTonemap_passes (P0 := P) (P := fun _ => P) B.toPasses (fun _ => B.toPasses) h
    (fun s => B.inner s _ _ s.free) (fun _ s => B.inner s s.valid _ s.free)
    fun _ s' _ => B.inner s' _ s'.bufs s'.free

theorem stageDepth (B : Bodies P Q) {s : State} (h : P s) : (stageDepth s).Sat P Q :=
  stageDepth_passes (P := fun _ => P) (fun _ => B.toPasses) (B.inner s _ _ s.free h)
    (fun _ s => B.inner s s.valid _ s.free) fun s' => B.inner s' _ s'.bufs s'.free

theorem stagePalette (B : Bodies P Q) {s : State} (h : P s) : (stagePalette s).Sat P Q :=
  stagePalette_passes (P := fun _ => P) (fun _ => B.toPasses) (B.inner s _ _ s.free h)
    (fun _ s => B.inner s s.valid _ s.free) fun s' => B.inner s' _ s'.bufs s'.free

end Bodies

/-- The writes of rows 0 .. n - 1 keep `P`, where `n` and the writes are those of states with `P`. -/
def WritesKeep (P : State → Prop) (n : State → Nat) (writes : Nat → State → List PortWrite) : Prop :=
  ∀ y s1 s, P s1 → P s → y < n s1 → ∀ w ∈ writes y s, w.addr + w.bytes.length ≤ 4294967296 →
    ∀ s', P s' → P (writeBytes w.addr w.bytes s')

theorem writesKeep_of_engineWrite {P : State → Prop} (h : ∀ a v s, a < 4294967296 → P s → P (engineWrite a v s))
    (n : State → Nat) (writes : Nat → State → List PortWrite) : WritesKeep P n writes :=
  fun _ _ _ _ _ _ w _ hb s' h' => writeBytes_sat h w.addr w.bytes s' hb h'

theorem Bodies.writingRows {P Q : State → Prop} (B : Bodies P Q) (stage : Stage) {n : State → Nat}
    {writes : Nat → State → List PortWrite} (hw : WritesKeep P n writes) {s : State} (h : P s) :
    (writingRows stage (n s) writes s).Sat P Q :=
  writingRows_passes B.toPasses (fun a s => B.bus a s) stage _ writes (fun y s1 hy h1 => hw y s s1 h h1 hy) h

/-- The stages of a RUN_FRAME after its dither stage. -/
theorem Bodies.frameTail {P Q : State → Prop} (B : Bodies P Q) (hw : WritesKeep P latH upscaleWrites) {s : State}
    (h : P s) : (frameTail s).Sat Q Q := by
  have between (s1 : State) (h1 : P s1) := betweenStages_passes B.toPasses h1
  have shadowed := sat_andThen (B.stageDepth h) between
  have coloured := sat_andThen (sat_andThen shadowed fun s1 h1 => B.stagePalette h1) between
  exact B.thenComplete (sat_andThen coloured fun s1 h1 => B.writingRows .upscale hw h1)

/-! ### The contrast check holds good until the build -/

/-- A LUT build that the command may still make has no rejected contrast (42_tone_curve_lut.md R221, R223). -/
def ContrastOk (s : State) : Prop := buildNeeded s = true → toneContrast s.snap.tone < 259

theorem contrastOk_congr {s t : State} (hl : t.lut = s.lut) (hs : t.snap = s.snap) (h : ContrastOk s) :
    ContrastOk t := by
  rw [ContrastOk, buildNeeded, hl, hs]
  exact h

theorem contrastOk_of_check {s : State} (h : (checkContrast (buildNeeded s) s).fails = false) : ContrastOk s := by
  intro hn
  simpa [checkContrast, hn] using h

theorem contrastOk_buildIfNeeded (s : State) : ContrastOk (buildIfNeeded s) := by
  intro h
  unfold buildIfNeeded at h
  split at h
  · simp [buildNeeded, buildLut] at h
  · contradiction

theorem lands_contrastOk : Lands ContrastOk fun _ => True where
  script _ _ h := h
  act ws i s hi h := contrastOk_congr (hostAct_hostOnly ws i s hi).lut (hostAct_hostOnly ws i s hi).snap h
  reset _ _ _ _ _ _ := trivial

theorem bodies_contrastOk : Bodies ContrastOk fun _ => True where
  land ws s h := land_sat lands_contrastOk ws s h
  abandon s _ :=
    abandon_sat lands_true lands_true s trivial (fun _ _ => trivial) (fun _ _ => trivial) fun _ _ => trivial
  row _ _ _ h := h
  inner _ _ _ _ h := h
  fails k a s _ := raiseError_sat lands_true lands_true k a s trivial (fun _ _ => trivial) (fun _ _ => trivial)
    (fun _ _ => trivial) fun _ _ => trivial
  completes s _ := complete_sat lands_true lands_true s trivial fun _ _ => trivial

/-- The build where one is needed, after the contrast check. -/
theorem buildIfNeeded_of_buildLut {P : State → Prop} (h : ∀ s, P s → toneContrast s.snap.tone < 259 → P (buildLut s))
    {s : State} (hs : P s) (hc : ContrastOk s) : P (buildIfNeeded s) := by
  unfold buildIfNeeded
  split
  · exact h s hs (hc ‹_›)
  · exact hs

theorem Bodies.stageTonemap_of_contrastOk {P Q : State → Prop} (B : Bodies P Q)
    (hbuild : ∀ s, P s → toneContrast s.snap.tone < 259 → P (buildLut s)) {s : State} (h : P s) (hc : ContrastOk s) :
    (Machine.stageTonemap s).Sat P Q :=
  B.stageTonemap (buildIfNeeded_of_buildLut hbuild h hc)

/-- The stages of a RUN_FRAME to the dispatch of its dither variant. -/
theorem Bodies.frameHead {P Q : State → Prop} (B : Bodies P Q) (hlatch : ∀ s d, P s → P { s with dims := d })
    (hbuild : ∀ s, P s → toneContrast s.snap.tone < 259 → P (buildLut s)) (hdispatch : ∀ s, P s → Q (dispatchDither s))
    {s : State} (h : P s) (hc : ContrastOk s) : (frameHead s).Sat Q Q := by
  have B' := B.and bodies_contrastOk
  have between (s1 : State) (h1 : P s1 ∧ ContrastOk s1) := betweenStages_passes B'.toPasses h1
  have sampled := sat_andThen (B'.stageSample (fun s d h => ⟨hlatch s d h.1, h.2⟩) ⟨h, hc⟩) between
  have toned := sat_andThen (sat_andThen sampled fun s1 ⟨h1, hc1⟩ =>
    B'.stageTonemap ⟨buildIfNeeded_of_buildLut hbuild h1 hc1, contrastOk_buildIfNeeded s1⟩) between
  exact sat_andThen (sat_mono toned (fun _ h => h) fun _ h => h.1) fun s1 h1 => hdispatch s1 h1.1

/-! ### Commands -/

theorem isCommand_decode_cmd (w : Word) : isCommand (decode (.cmd w)) = true := by
  simp [isCommand, encode_decode]

theorem isCommand_decode_style (c : Byte) : isCommand (decode (.style c)) = false := by
  simp [isCommand, encode_decode]

/-- A command with one check and no region, from acceptance. -/
theorem Bodies.runCommand {P Q : State → Prop} (B : Bodies P Q) {w : Word} {checks : State → List Check}
    {regions : State → List Region} {body : State → Flow} {s t : State} (ha : P (accept w s))
    (hb : ∀ s1, P s1 → firstFail (checks s1) = none → (body s1).Sat Q Q)
    (ht : runCommand w checks regions body s = .next t) : Q t :=
  runCommand_passes B.toPasses ha (fun k a s1 h1 => sat_mono (B.fails k a s1 h1) (fun _ => False.elim) fun _ h => h) hb
    (fun _ h => h) ht

theorem Bodies.runDump {P Q : State → Prop} (B : Bodies P Q) {w : Word} {valid : Valid → Bool} {e : Nat}
    {elem : State → Nat → Nat → List Byte} (hw : WritesKeep P workH (dumpWrites e elem)) {s t : State}
    (ha : P (accept w s)) (ht : runDump w valid e elem s = .next t) : Q t :=
  B.runCommand ha (fun _ h1 _ => B.thenComplete (B.writingRows .dump hw h1)) ht

theorem Bodies.execUpscale {P Q : State → Prop} (B : Bodies P Q) (hw : WritesKeep P latH upscaleWrites) {s t : State}
    (ha : P (accept 0x08 s)) (ht : execUpscale s = .next t) : Q t :=
  B.runCommand ha (fun _ h1 _ => B.thenComplete (B.writingRows .upscale hw h1)) ht

/-- Every command from acceptance on; a write to memory matters only for those that make one. -/
theorem Bodies.exec {P Q : State → Prop} (B : Bodies P Q) (hlatch : ∀ s d, P s → P { s with dims := d })
    (hbuild : ∀ s, P s → toneContrast s.snap.tone < 259 → P (buildLut s)) (hdispatch : ∀ s, P s → Q (dispatchDither s))
    {i : Instr} {s t : State}
    (hwrite : writesFrame i = true → i ≠ .runFrame → ∀ a v s, a < 4294967296 → P s → P (engineWrite a v s))
    (hi : isCommand i = true) (hm : i = .runFrame → NotMidFrame s) (ha : ∀ w, P (accept w s))
    (ht : exec i s = .next t) : Q t := by
  have checked (c : Check) (cs : List Check) (h : firstFail cs = none) (hc : c ∈ cs) : c.fails = false :=
    (firstFail_none cs).1 h c hc
  cases i with
  | nop =>
    exact B.runCommand (checks := fun _ => []) (body := fun s => Machine.thenComplete (.on s)) (ha _)
      (fun s1 h1 _ => B.thenComplete (f := .on s1) h1) ht
  | illegalCmd w =>
    refine B.runCommand (checks := fun _ => [⟨true, .illegalCmd, 0⟩]) (regions := noRegions) (body := .on) (ha w)
      (fun s1 _ hc => ?_) ht
    cases hc
  | runFrame =>
    rw [Machine.exec, execRunFrame_of_notMidFrame (hm rfl)] at ht
    refine B.runCommand (ha _) (fun s1 h1 hc => ?_) ht
    split at hc
    · rw [if_pos ‹_›]
      exact B.thenComplete (B.zeroAreaSample hlatch h1)
    · rw [if_neg ‹_›]
      refine B.frameHead hlatch hbuild hdispatch h1 (contrastOk_of_check (checked _ _ hc ?_))
      simp [frameChecks, sampleChecks]
  | buildLut =>
    refine B.runCommand (ha _) (fun s1 h1 hc => B.thenComplete (f := .on (Machine.buildLut s1)) (hbuild s1 h1 ?_)) ht
    simpa [checkContrast] using checked (checkContrast true s1) _ hc (by simp)
  | sample =>
    refine B.runCommand (ha _) (fun s1 h1 _ => ?_) ht
    split
    · exact B.thenComplete (B.zeroAreaSample hlatch h1)
    · exact B.thenComplete (B.stageSample hlatch h1)
  | tonemap =>
    refine B.runCommand (ha _) (fun s1 h1 hc => B.thenComplete (B.stageTonemap_of_contrastOk hbuild h1 ?_)) ht
    exact contrastOk_of_check (checked _ _ hc (by simp))
  | dither =>
    exact B.runCommand (body := fun s => .on (dispatchDither s)) (ha _) (fun s1 h1 _ => hdispatch s1 h1) ht
  | depth => exact B.runCommand (ha _) (fun s1 h1 _ => B.thenComplete (B.stageDepth h1)) ht
  | palette => exact B.runCommand (ha _) (fun s1 h1 _ => B.thenComplete (B.stagePalette h1)) ht
  | upscale => exact B.execUpscale (writesKeep_of_engineWrite (hwrite rfl (by simp)) _ _) (ha _) ht
  | dumpIbuf | dumpTbuf | dumpMbuf | dumpDbuf | dumpCbuf =>
    exact B.runDump (writesKeep_of_engineWrite (hwrite rfl (by simp)) _ _) (ha _) ht
  | edFloydSteinberg | edAtkinson | edJjn | edStucki | edBurkes | edSierra | edSierra2 | edSierraLite | ordBayer
  | ordKnoll | linesH | linesV | linesD | noiseBlue | noiseWhite | noiseStipple | noiseVoronoi | waveSinX | waveSinY
  | waveSinR | waveSqrX | waveSqrY | waveSqrR | patChecker | patGrid | patRandom | patGradient | vcOstromoukhov
  | sfcRiemersma | passthrough => cases hi

/-! ### Steps -/

/-- A property that every item from outside and every instruction the engine decodes keep is kept by a step. -/
theorem step_keeps {Q : State → Prop}
    (hhost : ∀ s i rest, s.phase = .idle → Q s → Q (hostAct [] i { s with script := rest }))
    (hexec : ∀ e s t, fetch s = some e → Q s → exec (decode e) s = .next t → Q t) {s t : State} (h : Q s)
    (ht : step s = .next t) : Q t := by
  have hrun : ∀ s, Q s → runFetched s = .next t → Q t := by
    intro s h ht
    unfold runFetched at ht
    split at ht
    · exact hexec _ s t ‹_› h ht
    · cases ht
      exact h
  unfold step at ht
  split at ht
  · split at ht
    · cases ht
      exact h
    · exact hrun _ (hhost s _ _ ‹_› h) ht
  · exact hrun s h ht

/-- What the engine decodes is a command to be accepted, the rest of a RUN_FRAME after its dither stage, or a
variant. -/
theorem fetch_cases {s : State} {e : Encoded} (h : fetch s = some e) :
    (isCommand (decode e) = true ∧ (decode e = .runFrame → NotMidFrame s))
      ∨ (decode e = .runFrame ∧ ∃ w row, s.phase = .run w .depth row ∧ decodeCmd w = .runFrame)
      ∨ isCommand (decode e) = false ∧ ∃ w row, s.phase = .run w .dither row := by
  cases hp : s.phase with
  | idle => simp [fetch, hp] at h
  | fetch w =>
    rw [fetch_word hp] at h
    cases h
    exact .inl ⟨isCommand_decode_cmd w, fun _ w' row hrun => by simp [hp] at hrun⟩
  | run w stage row =>
    by_cases hd : stage = .dither
    · subst hd
      have he : e = .style s.snap.style := by simpa [fetch, hp] using h.symm
      subst he
      exact .inr (.inr ⟨isCommand_decode_style _, w, row, rfl⟩)
    · have he : e = .cmd w := by
        cases stage with
        | dither => exact absurd rfl hd
        | _ => simpa [fetch, hp] using h.symm
      subst he
      by_cases hm : stage = .depth ∧ decodeCmd w = .runFrame
      · obtain ⟨rfl, hw⟩ := hm
        exact .inr (.inl ⟨hw, w, row, rfl, hw⟩)
      · refine .inl ⟨isCommand_decode_cmd w, fun hw w' row' hrun => hm ?_⟩
        rw [hp] at hrun
        cases hrun
        exact ⟨rfl, hw⟩

end Sys2Proof.Machine
end

section
/-! PROOFS. The invariants that the block's own progress does not touch: the platform's parameters, the canonical form
of memory, the random state, the seeds and the bases, and the LUT (20_memory.md, 10_state.md section 5,
42_tone_curve_lut.md section 1). -/

namespace Sys2Proof.Machine

/-! ### Steady properties -/

/-- A property that every step keeps because of what it keeps one by one: the block's own progress and its flags do not
matter to it; an item from outside, a reset, an engine write, acceptance, a LUT build with an admitted contrast, the
start of a dither stage and draws keep it. -/
structure Steady (P : State → Prop) : Prop where
  own : ∀ s st re va di db bu df ph l ra n, P s → P { s with
    status := st, report := re, valid := va, dims := di, dimsBefore := db, bufs := bu, diff := df, phase := ph
    script := l, race := ra, free := n }
  host : ∀ ws i s, isReset i = false → P s → P (hostAct ws i s)
  reset : ∀ s, P s → P (blockReset s)
  write : ∀ a v s, a < 4294967296 → P s → P (engineWrite a v s)
  accept : ∀ w s, P s → P (accept w s)
  build : ∀ s, P s → toneContrast s.snap.tone < 259 → P (buildLut s)
  dither : ∀ s, P s → P (startDither s)
  rng : ∀ s g, (s.rngState ≠ 0 → g ≠ 0) → P s → P { s with rngState := g }

theorem drawn_ne_zero (n : Nat) {g : Word} (h : g ≠ 0) : drawn n g ≠ 0 := by
  induction n generalizing g with
  | zero => exact h
  | succ n ih => exact ih (xorshift_ne_zero h)

namespace Steady

variable {P : State → Prop}

theorem atRow (S : Steady P) (stage : Stage) (row : Nat) (s : State) (h : P s) : P (atRow stage row s) :=
  S.own s _ _ _ _ _ _ _ _ _ _ _ h

theorem endCommand (S : Steady P) (s : State) (h : P s) : P (endCommand s) := S.own s _ _ _ _ _ _ _ _ _ _ _ h

theorem lands (S : Steady P) : Lands P P where
  script l s h := S.own s _ _ _ _ _ _ _ _ l _ _ h
  act := S.host
  reset ws n torn l s h :=
    S.own (blockReset (writePrefix n torn ws s)) _ _ _ _ _ _ _ _ l _ _
      (S.reset _ (writePrefix_sat S.write n torn ws s h))

theorem bodies (S : Steady P) : Bodies P P where
  land ws s h := land_sat S.lands ws s h
  abandon s h := abandon_sat S.lands S.lands s (S.own s _ _ _ _ _ _ _ _ _ _ _ h)
    (fun s h => S.own s _ _ _ _ _ _ _ _ _ _ _ h) S.endCommand fun _ h => h
  row := S.atRow
  inner s _ _ _ h := S.own s _ _ _ _ _ _ _ _ _ _ _ h
  fails k a s h := raiseError_sat S.lands S.lands k a s (S.own s _ _ _ _ _ _ _ _ _ _ _ h)
    (fun s h => S.own s _ _ _ _ _ _ _ _ _ _ _ h) (fun s h => S.own s _ _ _ _ _ _ _ _ _ _ _ h) S.endCommand fun _ h => h
  completes s h := complete_sat S.lands S.lands s (S.own s _ _ _ _ _ _ _ _ _ _ _ h) S.endCommand

/-- A variant keeps a steady property. -/
theorem style (S : Steady P) {i : Instr} {s t : State} (hi : isCommand i = false) (h : P s)
    (ht : exec i s = .next t) : P t := by
  obtain ⟨setUp, row, hv, he⟩ := runsVariant_of_not_isCommand hi s
  rw [he] at ht
  refine runStyle_passes (P := fun _ => P) (P1 := P) hv (fun _ => S.bodies.toPasses) S.bodies.toPasses
    (fun f => S.own s _ _ _ _ _ _ f _ _ _ _ h) (fun _ s f r h _ => ?_) (fun s h => S.own s _ _ _ _ _ _ _ _ _ _ _ h)
    S.bodies.completes (fun s h _ => S.atRow _ _ s h) ht
  have hg : s.rngState ≠ 0 → (if draws i = true then drawn (workW s) s.rngState else s.rngState) ≠ 0 := ?_
  · exact S.own { s with rngState := _ } _ _ _ _ _ _ _ _ _ _ _ (S.rng s _ hg h)
  intro h0
  split
  · exact drawn_ne_zero _ h0
  · exact h0

theorem exec (S : Steady P) {e : Encoded} {s t : State} (hf : fetch s = some e) (h : P s)
    (ht : exec (decode e) s = .next t) : P t := by
  rcases fetch_cases hf with ⟨hi, hm⟩ | ⟨he, w, row, hp, -⟩ | ⟨hi, -⟩
  · exact S.bodies.exec (fun s d h => S.own s _ _ _ d _ _ _ _ _ _ _ h) S.build
      (fun s h => S.atRow _ _ _ (S.dither s h)) (fun _ _ => S.write) hi hm
      (fun w => S.accept w s h) ht
  · rw [he] at ht
    simp only [Machine.exec, execRunFrame, hp] at ht
    exact sat_out (S.bodies.frameTail (writesKeep_of_engineWrite S.write _ _) h) (fun _ h => h) ht
  · exact S.style hi h ht

/-- A step keeps a steady property. -/
theorem step (S : Steady P) {s t : State} (h : P s) (ht : step s = .next t) : P t := by
  refine step_keeps (fun s i rest _ h => ?_) (fun e s t hf => S.exec hf) h ht
  have hs : P { s with script := rest } := S.own s _ _ _ _ _ _ _ _ _ _ _ h
  cases i with
  | resetOn n torn =>
    rw [hostAct_resetOn_nil]
    exact S.reset _ hs
  | _ => exact S.host [] _ _ rfl hs

end Steady

/-! ### What an item from outside does to the configuration and to memory -/

theorem regWrite_cfg (r : Reg) (v : Word) (s : State) : (regWrite r v s).cfg = cfgWrite r v s.cfg := by
  cases r
  case cmd =>
    simp only [regWrite, submit]
    split <;> rfl
  all_goals rfl

theorem regWrite_mem (r : Reg) (v : Word) (s : State) : (regWrite r v s).mem = s.mem := by
  cases r
  case cmd =>
    simp only [regWrite, submit]
    split <;> rfl
  all_goals rfl

/-- The world outside changes the configuration by register writes only. -/
theorem hostAct_cfg (ws : List PortWrite) (i : HostItem) (s : State) (h : isReset i = false) :
    (hostAct ws i s).cfg = s.cfg ∨ ∃ r v, (hostAct ws i s).cfg = cfgWrite r v s.cfg := by
  cases i with
  | write off nb v =>
    simp only [hostAct, portWrite]
    split
    · exact .inl rfl
    · split
      · exact .inl rfl
      · split
        · exact .inl rfl
        · exact .inr ⟨_, v, regWrite_cfg _ v s⟩
  | read off nb =>
    obtain ⟨l, n, e⟩ := portRead_state off nb s
    exact .inl (by rw [hostAct, e])
  | waitIdle =>
    obtain ⟨l, n, e⟩ := portRead_state 0x014 4 s
    exact .inl (by rw [hostAct, e])
  | memWrite a b =>
    left
    simp only [hostAct, otherWrite]
    split
    · rw [drawAmong_state]
    · rfl
  | memRead a => exact .inl (by rw [hostAct, otherRead_state]; rfl)
  | pass => exact .inl rfl
  | resetOn n torn => cases h
  | resetOff => exact .inl rfl

/-- The world outside changes memory by one write of another agent. -/
theorem hostAct_mem (ws : List PortWrite) (i : HostItem) (s : State) (h : isReset i = false) :
    (hostAct ws i s).mem = s.mem ∨ ∃ a b, a < 4294967296 ∧ (hostAct ws i s).mem = s.mem.write a b := by
  cases i with
  | write off nb v =>
    left
    simp only [hostAct, portWrite]
    split
    · rfl
    · split
      · rfl
      · split
        · rfl
        · exact regWrite_mem _ v s
  | read off nb =>
    obtain ⟨l, n, e⟩ := portRead_state off nb s
    exact .inl (by rw [hostAct, e])
  | waitIdle =>
    obtain ⟨l, n, e⟩ := portRead_state 0x014 4 s
    exact .inl (by rw [hostAct, e])
  | memWrite a b =>
    right
    simp only [hostAct, otherWrite]
    split
    · exact ⟨a.toNat, _, a.isLt, by rw [drawAmong_mem]⟩
    · exact ⟨a.toNat, b, a.isLt, rfl⟩
  | memRead a => exact .inl (otherRead_mem _ _ s)
  | pass => exact .inl rfl
  | resetOn n torn => cases h
  | resetOff => exact .inl rfl

/-! ### The platform -/

theorem engineWrite_plat (a : Nat) (v : Byte) (s : State) : (engineWrite a v s).plat = s.plat := by
  obtain ⟨b, n, u, h⟩ := engineWrite_state a v s
  rw [h]

theorem steady_plat (p : Platform) : Steady fun s => s.plat = p where
  own _ _ _ _ _ _ _ _ _ _ _ _ h := h
  host ws i s hi h := (hostAct_hostOnly ws i s hi).plat.trans h
  reset _ h := h
  write a v s _ h := (engineWrite_plat a v s).trans h
  accept _ _ h := h
  build _ h _ := h
  dither _ h := h
  rng _ _ _ h := h

/-- Settles O40: having a given platform is steady. -/
theorem platformFixed : Obligations.PlatformFixed := fun s _ ht => (steady_plat s.plat).step rfl ht

/-! ### Memory -/

theorem steady_memWf : Steady fun s => s.mem.wf = true where
  own _ _ _ _ _ _ _ _ _ _ _ _ h := h
  host ws i s hi h := by
    rcases hostAct_mem ws i s hi with e | ⟨a, b, ha, e⟩
    · rwa [e]
    · rw [e]
      exact write_wf s.mem a b h ha
  reset _ h := h
  write a v s ha h := engineWrite_wf a v s h ha
  accept _ _ h := h
  build _ h _ := h
  dither _ h := h
  rng _ _ _ h := h

/-- Settles O41: the canonical form is steady, since memory changes by writes below 2^32 only. -/
theorem memoryInvariant : Obligations.MemoryInvariant := fun _ _ h ht => steady_memWf.step h ht

/-! ### The LUT -/

theorem steady_lutOk : Steady LutOk where
  own _ _ _ _ _ _ _ _ _ _ _ _ h := h
  host ws i s hi h := by
    rw [LutOk, (hostAct_hostOnly ws i s hi).lut]
    exact h
  reset _ _ h := Bool.noConfusion h
  write a v s _ h := by
    obtain ⟨b, n, u, e⟩ := engineWrite_state a v s
    rw [e]
    exact h
  accept _ _ h := h
  build _ _ hc _ := ⟨rfl, hc⟩
  dither _ h := h
  rng _ _ _ h := h

/-- Settles O43: a built LUT of an admitted contrast is steady; the check before a build holds good until the build
(`ContrastOk`), and a reset leaves no LUT built. -/
theorem lutInvariant : Obligations.LutInvariant := fun _ _ h ht => steady_lutOk.step h ht

/-! ### The random state, the seeds and the bases -/

/-- A seed that is not 0, and bases that are multiples of 4 (10_state.md R56, R58, R70). -/
def CfgOk (c : Cfg) : Prop := c.rngSeed ≠ 0 ∧ c.srcBase.toNat % 4 = 0 ∧ c.dstBase.toNat % 4 = 0

theorem cfgOk_reset : CfgOk Cfg.reset := by unfold CfgOk; decide

/-- R56, R58: the two low bits of a base are not stored. -/
theorem alignBase_mod (v : Word) : (alignBase v).toNat % 4 = 0 := by
  have hlow : (alignBase v).toNat % 2 ^ 2 = v.toNat % 2 ^ 2 &&& 4294967292 % 2 ^ 2 := by
    rw [alignBase, BitVec.toNat_and]
    exact Nat.and_mod_two_pow
  simpa using hlow

theorem cfgWrite_cfgOk (r : Reg) (v : Word) {c : Cfg} (h : CfgOk c) : CfgOk (cfgWrite r v c) := by
  obtain ⟨hseed, hsrc, hdst⟩ := h
  cases r
  case srcBase => exact ⟨hseed, alignBase_mod v, hdst⟩
  case dstBase => exact ⟨hseed, hsrc, alignBase_mod v⟩
  case rngSeed =>
    refine ⟨?_, hsrc, hdst⟩
    show (if v = 0 then 1 else v) ≠ 0
    split
    · decide
    · assumption
  all_goals exact ⟨hseed, hsrc, hdst⟩

/-- RNG_STATE, the live and the snapshot's seeds and bases. -/
def SeedsOk (s : State) : Prop := s.rngState ≠ 0 ∧ CfgOk s.cfg ∧ CfgOk s.snap

theorem seedsOk_iff (s : State) : SeedsOk s ↔ RngOk s ∧ BasesOk s := by
  unfold SeedsOk CfgOk
  tauto

theorem steady_seedsOk : Steady SeedsOk where
  own _ _ _ _ _ _ _ _ _ _ _ _ h := h
  host ws i s hi h := by
    obtain ⟨hrng, hcfg, hsnap⟩ := h
    have hh := hostAct_hostOnly ws i s hi
    refine ⟨hh.rngState ▸ hrng, ?_, hh.snap ▸ hsnap⟩
    rcases hostAct_cfg ws i s hi with e | ⟨r, v, e⟩
    · rwa [e]
    · rw [e]
      exact cfgWrite_cfgOk r v hcfg
  reset _ _ := ⟨show (1 : Word) ≠ 0 by decide, cfgOk_reset, cfgOk_reset⟩
  write a v s _ h := by
    obtain ⟨b, n, u, e⟩ := engineWrite_state a v s
    rw [e]
    exact h
  accept _ _ h := ⟨h.1, h.2.1, h.2.1⟩
  build _ h _ := h
  dither s h := by
    obtain ⟨hrng, hcfg, hsnap⟩ := h
    refine ⟨?_, hcfg, hsnap⟩
    show (if s.snap.rngFree then s.rngState else s.snap.rngSeed) ≠ 0
    split
    · exact hrng
    · exact hsnap.1
  rng _ _ hg h := ⟨hg h.1, h.2⟩

/-! ### ACC and SERP_E -/

theorem lands_diffuserOk {P : State → Prop} (hs : ∀ l s, P s → P { s with script := l })
    (ha : ∀ s t, t.diff = s.diff → P s → P t) : Lands P DiffuserOk where
  script := hs
  act ws i s hi h := ha s _ (hostAct_hostOnly ws i s hi).diff h
  reset _ _ _ _ _ _ := rfl

theorem lands_diffuserOk_self : Lands DiffuserOk DiffuserOk :=
  lands_diffuserOk (fun _ _ h => h) fun _ _ e h => e.trans h

/-- While a variant runs the accumulators hold values; every way its step can end clears them. -/
theorem passes_diffuserOk_true : Passes (fun _ => True) DiffuserOk where
  land ws s h := land_sat (lands_diffuserOk (fun _ _ h => h) fun _ _ _ h => h) ws s h
  abandon s _ := abandon_sat (P := fun _ => True) (lands_diffuserOk (fun _ _ h => h) fun _ _ _ h => h)
    lands_diffuserOk_self s trivial (fun _ h => h) (fun _ _ => rfl) fun _ h => h
  row _ _ _ h := h

theorem bodies_diffuserOk : Bodies DiffuserOk DiffuserOk where
  land ws s h := land_sat lands_diffuserOk_self ws s h
  abandon s h :=
    abandon_sat lands_diffuserOk_self lands_diffuserOk_self s h (fun _ h => h) (fun _ _ => rfl) fun _ h => h
  row _ _ _ h := h
  inner _ _ _ _ h := h
  fails k a s h := raiseError_sat lands_diffuserOk_self lands_diffuserOk_self k a s h (fun _ h => h) (fun _ h => h)
    (fun _ _ => rfl) fun _ h => h
  completes s h := complete_sat lands_diffuserOk_self lands_diffuserOk_self s h fun _ _ => rfl

theorem engineWrite_diff (a : Nat) (v : Byte) (s : State) : (engineWrite a v s).diff = s.diff := by
  obtain ⟨b, n, u, h⟩ := engineWrite_state a v s
  rw [h]

theorem exec_diffuserOk {e : Encoded} {s t : State} (hf : fetch s = some e) (h : DiffuserOk s)
    (ht : exec (decode e) s = .next t) : DiffuserOk t := by
  have hwrite : ∀ a v s, a < 4294967296 → DiffuserOk s → DiffuserOk (engineWrite a v s) :=
    fun a v s _ h => (engineWrite_diff a v s).trans h
  rcases fetch_cases hf with ⟨hi, hm⟩ | ⟨he, w, row, hp, -⟩ | ⟨hi, -⟩
  · exact bodies_diffuserOk.exec (fun _ _ h => h) (fun _ h _ => h) (fun _ h => h) (fun _ _ => hwrite) hi hm
      (fun _ => h) ht
  · rw [he] at ht
    simp only [exec, execRunFrame, hp] at ht
    exact sat_out (bodies_diffuserOk.frameTail (writesKeep_of_engineWrite hwrite _ _) h) (fun _ h => h) ht
  · obtain ⟨setUp, row, hv, he⟩ := runsVariant_of_not_isCommand hi s
    rw [he] at ht
    exact runStyle_passes (P := fun _ _ => True) (P1 := DiffuserOk) hv (fun _ => passes_diffuserOk_true)
      bodies_diffuserOk.toPasses (fun _ => trivial) (fun _ _ _ _ _ _ => trivial) (fun _ _ => rfl)
      bodies_diffuserOk.completes (fun _ h _ => h) ht

theorem step_diffuserOk {s t : State} (h : DiffuserOk s) (ht : step s = .next t) : DiffuserOk t := by
  refine step_keeps (fun s i rest _ h => ?_) (fun e s t hf => exec_diffuserOk hf) h ht
  cases i with
  | resetOn n torn => rfl
  | _ => exact (hostAct_hostOnly [] _ _ rfl).diff.trans h

/-- Settles O42: the random state, the seeds and the bases are steady; the accumulators are cleared wherever a variant
ends. -/
theorem registerInvariant : Obligations.RegisterInvariant := by
  intro s t hrng hbases hdiff ht
  obtain ⟨hrng', hbases'⟩ := (seedsOk_iff t).1 (steady_seedsOk.step ((seedsOk_iff s).2 ⟨hrng, hbases⟩) ht)
  exact ⟨hrng', hbases', step_diffuserOk hdiff ht⟩

/-! ### The IDLE engine -/

/-- Settles O39: what acts on the IDLE engine is the world outside alone, and the engine is still IDLE after it. -/
theorem idleKeeps : Obligations.IdleKeeps := by
  intro s t hp hcmd hreset ht
  cases hs : s.script with
  | nil =>
    simp only [step, hp, hs] at ht
    cases ht
    exact ⟨rfl, rfl, rfl, rfl, rfl, rfl, rfl, rfl, hp, rfl, rfl, rfl, rfl⟩
  | cons i rest =>
    have hi : isReset i = false := by
      cases i with
      | resetOn n torn => exact absurd hs (hreset n torn rest)
      | _ => rfl
    have hidle : (hostAct [] i { s with script := rest }).phase = .idle := by
      refine hostAct_phase_idle [] i _ hp fun w e => hcmd w rest ?_
      rw [hs, e]
    rw [step_idle_cons hp hs, runFetched_idle hidle] at ht
    cases ht
    have hh := hostAct_hostOnly [] i { s with script := rest } hi
    have hbusy : busy { s with script := rest } = false := by simp [busy, hp]
    refine ⟨hh.snap, hh.report, hh.valid, hh.dims, hh.lut, hh.bufs, hh.rngState, hh.diff, hidle, hh.plat, hh.styleUnk,
      hh.msizeFb, ?_⟩
    rcases hh.idle hbusy with ⟨-, hpend⟩ | ⟨-, hst, -⟩
    · exact hpend
    · rw [hst]

end Sys2Proof.Machine
end

section
/-! PROOFS. The flags and the report (10_state.md R40 to R50): what holds of them while a command runs, while it
completes and while it fails, and that every end of a step leaves them consistent. -/

namespace Sys2Proof.Machine

/-! ### Flags between acceptance and the end -/

/-- A command runs out of reset; DONE is 0 unless `done`, ERR is 0 unless `err`, and the report is as `r` says. -/
structure FlagsWhile (done err : Bool) (r : Report → Prop) (s : State) : Prop where
  notDone : done = false → s.status.done = false
  notErr : err = false → s.status.err = false
  report : r s.report
  inReset : s.inReset = false
  runs : ∃ w, RunsWord w s

/-- While a command runs its report is clear. -/
def ReportClear (r : Report) : Prop := r = ⟨0, 0, 0⟩

/-- Once a command fails its report has the code of an error. -/
def ReportsKind (k : ErrKind) (r : Report) : Prop := r.code = errCode k

abbrev FlagsRunning : State → Prop := FlagsWhile false false ReportClear
abbrev FlagsCompleting : State → Prop := FlagsWhile true false ReportClear
abbrev FlagsFailing (k : ErrKind) : State → Prop := FlagsWhile false true (ReportsKind k)

/-- The world outside clears flags and sets none. -/
theorem FlagsWhile.of_hostOnly {done err : Bool} {r : Report → Prop} {s t : State} (h : FlagsWhile done err r s)
    (hh : HostOnly s t) : FlagsWhile done err r t where
  notDone hd := Bool.eq_false_iff.2 fun ht => Bool.eq_false_iff.1 (h.notDone hd) (hh.done ht)
  notErr he := Bool.eq_false_iff.2 fun ht => Bool.eq_false_iff.1 (h.notErr he) (hh.err ht)
  report := hh.report ▸ h.report
  inReset := Bool.eq_false_iff.2 fun ht => Bool.eq_false_iff.1 h.inReset (hh.inReset ht)
  runs := h.runs.imp fun _ hr => hr.of_phase_eq (hh.phase hr.busy)

/-! ### What lands on consistent flags -/

/-- Flags of a state in which no command runs: consistency without the clause on a running command. -/
theorem flagsOk_of_not_running {s : State} (hrun : ∀ w, ¬RunsWord w s)
    (hex : ¬(s.status.done = true ∧ s.status.err = true)) (hdone : s.status.done = true → s.report = ⟨0, 0, 0⟩)
    (herr : s.status.err = true → s.report.code ≠ 0) (hcodes : s.report.code.toNat ≤ 9)
    (hpend : s.status.pending = true → busy s = true)
    (hreset : s.inReset = true → s.phase = .idle ∧ s.cfg = Cfg.reset ∧ irq s = false) : FlagsOk s :=
  ⟨hex, fun w stage row hp => absurd ⟨stage, row, hp⟩ (hrun w), hdone, herr, hcodes, hpend, hreset⟩

theorem flagsOk_blockReset (s : State) : FlagsOk (blockReset s) where
  exclusive := fun h => Bool.noConfusion h.1
  running := fun _ _ _ h => Phase.noConfusion h
  done := fun _ => rfl
  err := fun h => Bool.noConfusion h
  codes := Nat.zero_le 9
  pending := fun h => Bool.noConfusion h
  reset := fun _ => ⟨rfl, rfl, rfl⟩

theorem FlagsOk.script {s : State} (h : FlagsOk s) (l : List HostItem) : FlagsOk { s with script := l } :=
  ⟨h.exclusive, h.running, h.done, h.err, h.codes, h.pending, h.reset⟩

theorem FlagsOk.of_hostOnly {s t : State} (h : FlagsOk s) (hh : HostOnly s t) : FlagsOk t where
  exclusive ht := h.exclusive ⟨hh.done ht.1, hh.err ht.2⟩
  running w stage row hp := by
    have hs : s.phase = .run w stage row := by
      cases hb : busy s with
      | true => exact (hh.phase hb).symm.trans hp
      | false =>
        rcases hh.idle hb with ⟨hidle, -⟩ | ⟨-, -, w', ht⟩
        · rw [hidle] at hp
          cases hp
        · rw [ht] at hp
          cases hp
    obtain ⟨hd, he, hr, hi⟩ := h.running w stage row hs
    have hwhile : FlagsRunning s := ⟨fun _ => hd, fun _ => he, hr, hi, w, stage, row, hs⟩
    have ht := hwhile.of_hostOnly hh
    exact ⟨ht.notDone rfl, ht.notErr rfl, ht.report, ht.inReset⟩
  done ht := hh.report ▸ h.done (hh.done ht)
  err ht := hh.report ▸ h.err (hh.err ht)
  codes := hh.report ▸ h.codes
  pending ht := by
    cases hb : busy s with
    | true => simpa [busy, hh.phase hb] using hb
    | false =>
      have hnot : s.status.pending = false := Bool.eq_false_iff.2 fun hp => Bool.eq_false_iff.1 hb (h.pending hp)
      rcases hh.idle hb with ⟨-, hp⟩ | ⟨-, hst, -⟩
      · rw [hp, hnot] at ht
        cases ht
      · rw [hst, hnot] at ht
        cases ht
  reset ht := by
    have hs := hh.inReset ht
    obtain ⟨hcfg, hirq, hst, hp⟩ := hh.held hs
    obtain ⟨h1, h2, h3⟩ := h.reset hs
    refine ⟨hp.trans h1, hcfg.trans h2, ?_⟩
    rw [irq, hirq, hst]
    exact h3

theorem lands_flagsOk : Lands FlagsOk FlagsOk where
  script l _ h := h.script l
  act ws i s hi h := h.of_hostOnly (hostAct_hostOnly ws i s hi)
  reset _ _ _ l _ _ := (flagsOk_blockReset _).script l

theorem lands_flagsWhile (done err : Bool) (r : Report → Prop) : Lands (FlagsWhile done err r) FlagsOk where
  script _ _ h := ⟨h.notDone, h.notErr, h.report, h.inReset, h.runs⟩
  act ws i s hi h := h.of_hostOnly (hostAct_hostOnly ws i s hi)
  reset _ _ _ l _ _ := (flagsOk_blockReset _).script l

/-! ### The ends of a command -/

theorem not_runsWord_endCommand (w : Word) (s : State) : ¬RunsWord w (endCommand s) := by
  rintro ⟨stage, row, h⟩
  rw [endCommand_phase] at h
  split at h <;> cases h

/-- The end of a command that completes, is abandoned, or has failed. -/
theorem flagsOk_endCommand {done err : Bool} {r : Report → Prop} {s : State} (h : FlagsWhile done err r s)
    (hex : done = false ∨ err = false) (hdone : done = true → ∀ x, r x → x = ⟨0, 0, 0⟩)
    (herr : err = true → ∀ x, r x → x.code ≠ 0) (hcodes : ∀ x, r x → x.code.toNat ≤ 9) : FlagsOk (endCommand s) := by
  have hd : s.status.done = true → done = true := fun hs => by
    by_contra hn
    rw [h.notDone (Bool.eq_false_iff.2 hn)] at hs
    cases hs
  have he : s.status.err = true → err = true := fun hs => by
    by_contra hn
    rw [h.notErr (Bool.eq_false_iff.2 hn)] at hs
    cases hs
  refine flagsOk_of_not_running (fun w => not_runsWord_endCommand w s) ?_ (fun hs => hdone (hd hs) _ h.report)
    (fun hs => herr (he hs) _ h.report) (hcodes _ h.report) (fun hs => Bool.noConfusion hs) fun hs => ?_
  · rintro ⟨h1, h2⟩
    rcases hex with hx | hx
    · exact Bool.eq_false_iff.1 hx (hd h1)
    · exact Bool.eq_false_iff.1 hx (he h2)
  · rw [endCommand_inReset, h.inReset] at hs
    cases hs

theorem flagsOk_of_flagsRunning {s : State} (h : FlagsRunning s) : FlagsOk s where
  exclusive hs := Bool.eq_false_iff.1 (h.notDone rfl) hs.1
  running _ _ _ _ := ⟨h.notDone rfl, h.notErr rfl, h.report, h.inReset⟩
  done _ := h.report
  err hs := absurd hs (Bool.eq_false_iff.1 (h.notErr rfl))
  codes := by
    rw [h.report]
    exact Nat.zero_le 9
  pending _ := h.runs.elim fun _ hr => hr.busy
  reset hs := absurd hs (Bool.eq_false_iff.1 h.inReset)

theorem FlagsWhile.of_eq {done err : Bool} {r : Report → Prop} {s t : State} (h : FlagsWhile done err r s)
    (hst : t.status.done = s.status.done ∧ t.status.err = s.status.err) (hr : t.report = s.report)
    (hi : t.inReset = s.inReset) (hp : t.phase = s.phase) : FlagsWhile done err r t where
  notDone hd := hst.1.trans (h.notDone hd)
  notErr he := hst.2.trans (h.notErr he)
  report := hr ▸ h.report
  inReset := hi.trans h.inReset
  runs := h.runs.imp fun _ hw => hw.of_phase_eq hp

theorem errCode_ne_zero (k : ErrKind) : errCode k ≠ 0 := by cases k <;> decide

theorem errCode_le (k : ErrKind) : (errCode k).toNat ≤ 9 := by cases k <;> decide

theorem reportClear_code_le (x : Report) (h : ReportClear x) : x.code.toNat ≤ 9 := by
  rw [h]
  exact Nat.zero_le 9

theorem raiseError_flagsOk (k : ErrKind) (a : Word) (s : State) (h : FlagsRunning s) :
    (raiseError k a s).Sat (fun _ => False) FlagsOk := by
  refine raiseError_sat (P := FlagsFailing k) (lands_flagsWhile false true (ReportsKind k)) lands_flagsOk k a s ?_ ?_ ?_
    ?_ fun _ h => h
  · exact ⟨fun _ => h.notDone rfl, fun he => Bool.noConfusion he, rfl, h.inReset, h.runs⟩
  · exact fun _ h => ⟨h.notDone, h.notErr, h.report, h.inReset, h.runs⟩
  · exact fun _ h => ⟨h.notDone, fun he => Bool.noConfusion he, h.report, h.inReset, h.runs⟩
  · refine fun s h => flagsOk_endCommand h (.inl rfl) (fun hd => Bool.noConfusion hd) (fun _ x hx => ?_) fun x hx => ?_
    · exact hx ▸ errCode_ne_zero k
    · exact hx ▸ errCode_le k

theorem complete_flagsOk (s : State) (h : FlagsRunning s) : (complete s).Sat FlagsOk FlagsOk := by
  refine complete_sat (P := FlagsCompleting) (lands_flagsWhile true false ReportClear) lands_flagsOk s ?_ fun s h => ?_
  · exact ⟨fun hd => Bool.noConfusion hd, fun _ => h.notErr rfl, h.report, h.inReset, h.runs⟩
  · exact flagsOk_endCommand h (.inr rfl) (fun _ _ hx => hx) (fun he => Bool.noConfusion he) reportClear_code_le

theorem passes_flagsRunning : Passes FlagsRunning FlagsOk where
  land ws s h := land_sat (lands_flagsWhile _ _ _) ws s h
  abandon s h := by
    refine abandon_sat (P := FlagsRunning) (lands_flagsWhile _ _ _) lands_flagsOk s ?_ ?_ ?_ fun _ h => h
    · exact h.of_eq ⟨rfl, rfl⟩ rfl rfl rfl
    · exact fun _ h => h.of_eq ⟨rfl, rfl⟩ rfl rfl rfl
    · exact fun s h => flagsOk_endCommand h (.inl rfl) (fun hd => Bool.noConfusion hd) (fun he => Bool.noConfusion he)
        reportClear_code_le
  row stage row _ h := ⟨h.notDone, h.notErr, h.report, h.inReset, h.runs.imp fun _ hw => hw.atRow stage row⟩

theorem bodies_flagsRunning : Bodies FlagsRunning FlagsOk where
  toPasses := passes_flagsRunning
  inner _ _ _ _ h := h.of_eq ⟨rfl, rfl⟩ rfl rfl rfl
  fails := raiseError_flagsOk
  completes := complete_flagsOk

/-! ### Steps -/

theorem exec_flagsOk {e : Encoded} {s t : State} (hf : fetch s = some e) (h : FlagsOk s)
    (ht : exec (decode e) s = .next t) : FlagsOk t := by
  have hwrite : ∀ a v s, a < 4294967296 → FlagsRunning s → FlagsRunning (engineWrite a v s) := by
    intro a v s _ h
    obtain ⟨b, n, u, e⟩ := engineWrite_state a v s
    rw [e]
    exact h.of_eq ⟨rfl, rfl⟩ rfl rfl rfl
  have hreset : s.inReset = false := by
    refine Bool.eq_false_iff.2 fun hr => ?_
    rw [fetch_idle (h.reset hr).1] at hf
    cases hf
  have running (w : Word) (stage : Stage) (row : Nat) (hp : s.phase = .run w stage row) : FlagsRunning s := by
    obtain ⟨hd, he, hr, hi⟩ := h.running w stage row hp
    exact ⟨fun _ => hd, fun _ => he, hr, hi, w, stage, row, hp⟩
  rcases fetch_cases hf with ⟨hi, hm⟩ | ⟨he, w, row, hp, -⟩ | ⟨hi, w, row, hp⟩
  · refine bodies_flagsRunning.exec (fun _ _ h => h.of_eq ⟨rfl, rfl⟩ rfl rfl rfl)
      (fun _ h _ => h.of_eq ⟨rfl, rfl⟩ rfl rfl rfl) (fun s h => ?_) (fun _ _ => hwrite) hi hm
      (fun w => ⟨fun _ => rfl, fun _ => rfl, rfl, hreset, w, runsWord_accept w s⟩) ht
    exact flagsOk_of_flagsRunning (passes_flagsRunning.row _ _ (startDither s) (h.of_eq ⟨rfl, rfl⟩ rfl rfl rfl))
  · rw [he] at ht
    simp only [exec, execRunFrame, hp] at ht
    exact sat_out (bodies_flagsRunning.frameTail (writesKeep_of_engineWrite hwrite _ _) (running _ _ _ hp))
      (fun _ h => h) ht
  · obtain ⟨setUp, row, hv, he⟩ := runsVariant_of_not_isCommand hi s
    rw [he] at ht
    exact runStyle_passes (P := fun _ => FlagsRunning) (P1 := FlagsRunning) hv (fun _ => passes_flagsRunning)
      passes_flagsRunning (fun _ => (running _ _ _ hp).of_eq ⟨rfl, rfl⟩ rfl rfl rfl)
      (fun _ _ _ _ h _ => h.of_eq ⟨rfl, rfl⟩ rfl rfl rfl) (fun _ h => h.of_eq ⟨rfl, rfl⟩ rfl rfl rfl)
      complete_flagsOk (fun s h _ => flagsOk_of_flagsRunning (passes_flagsRunning.row _ _ s h)) ht

/-- Settles O45: items from outside clear flags and set none, a command runs with both flags 0 and a clear report, and
each of its endings sets one flag with the report that goes with it. -/
theorem flagInvariant : Obligations.FlagInvariant := by
  intro s t h ht
  refine step_keeps (fun s i rest _ h => ?_) (fun e s t hf => exec_flagsOk hf) h ht
  cases i with
  | resetOn n torn =>
    rw [hostAct_resetOn_nil]
    exact flagsOk_blockReset _
  | _ => exact (h.script rest).of_hostOnly (hostAct_hostOnly [] _ _ rfl)

end Sys2Proof.Machine
end

section
/-! PROOFS. The working buffers (10_state.md R76, R77): the valid ones form one chain and have the working dimensions, a
stage's output becomes valid when it has all its rows, and a command between two steps has its input. -/

namespace Sys2Proof.Machine

/-! ### Buffers of the working dimensions -/

/-- A list of rows has the dimensions that `d` latches. -/
def ShapedAs {α : Type} (d : Dims) (b : List (List α)) : Prop :=
  b.length = dimHi d.work ∧ ∀ r ∈ b, r.length = dimLo d.work

/-- The valid buffers form one chain and have the latched dimensions. -/
structure Chained (v : Valid) (b : Bufs) (d : Dims) : Prop where
  chain : (v.cbuf = true → v.dbuf = true) ∧ (v.dbuf = true → v.mbuf = true) ∧ (v.mbuf = true → v.tbuf = true)
    ∧ (v.tbuf = true → v.ibuf = true)
  shapes : (v.ibuf = true → ShapedAs d b.ibuf) ∧ (v.tbuf = true → ShapedAs d b.tbuf)
    ∧ (v.mbuf = true → ShapedAs d b.mbuf) ∧ (v.dbuf = true → ShapedAs d b.dbuf) ∧ (v.cbuf = true → ShapedAs d b.cbuf)

theorem chained_none (b : Bufs) (d : Dims) : Chained Valid.none b d := by
  constructor <;> simp [Valid.none]

/-- With `k` rows of a buffer done, and `full` what it gives to have them all. -/
structure Filling {α : Type} (d0 : Dims) (k : Nat) (rows : List (List α)) (full : List (List α) → Prop) (d : Dims) :
    Prop where
  dims : d = d0
  length : rows.length = k
  width : ∀ r ∈ rows, r.length = dimLo d0.work
  full : ∀ m, ShapedAs d0 m → full m

theorem Filling.push {α : Type} {d0 d : Dims} {k : Nat} {rows : List (List α)} {full full' : List (List α) → Prop}
    (h : Filling d0 k rows full d) (row : List α) (hr : row.length = dimLo d.work) (hf : ∀ m, full m → full' m) :
    Filling d0 (k + 1) (rows ++ [row]) full' d where
  dims := h.dims
  length := by simp [h.length]
  width := List.forall_mem_append.2 ⟨h.width, List.forall_mem_singleton.2 (h.dims ▸ hr)⟩
  full m hm := hf m (h.full m hm)

theorem Filling.filled {α : Type} {d0 d : Dims} {rows : List (List α)} {full : List (List α) → Prop}
    (h : Filling d0 (dimHi d0.work) rows full d) : full rows := h.full rows ⟨h.length, h.width⟩

/-! ### What lands on consistent buffers -/

theorem buffersOk_of_not_running {s : State} (hrun : ∀ w, ¬RunsWord w s) (h : Chained s.valid s.bufs s.dims) :
    BuffersOk s := ⟨h.chain, h.shapes, fun w stage row hp => absurd ⟨stage, row, hp⟩ (hrun w)⟩

theorem BuffersOk.chained {s : State} (h : BuffersOk s) : Chained s.valid s.bufs s.dims := ⟨h.chain, h.shapes⟩

theorem buffersOk_blockReset (s : State) (l : List HostItem) : BuffersOk { blockReset s with script := l } :=
  buffersOk_of_not_running (fun _ ⟨_, _, h⟩ => Phase.noConfusion h) (chained_none _ _)

/-- A running command was running before an item from outside acted. -/
theorem HostOnly.phase_run {s t : State} (hh : HostOnly s t) {w : Word} {stage : Stage} {row : Nat}
    (h : t.phase = .run w stage row) : s.phase = .run w stage row := by
  cases hb : busy s with
  | true => exact (hh.phase hb).symm.trans h
  | false =>
    rcases hh.idle hb with ⟨hidle, -⟩ | ⟨-, -, w', ht⟩
    · rw [hidle] at h
      cases h
    · rw [ht] at h
      cases h

theorem BuffersOk.of_hostOnly {s t : State} (h : BuffersOk s) (hh : HostOnly s t) : BuffersOk t := by
  have hc : Chained t.valid t.bufs t.dims := by
    rw [hh.valid, hh.bufs, hh.dims]
    exact h.chained
  refine ⟨hc.chain, hc.shapes, fun w stage row hp => ?_⟩
  rw [hh.valid]
  exact h.running w stage row (hh.phase_run hp)

theorem lands_buffersOk : Lands BuffersOk BuffersOk where
  script _ _ h := ⟨h.chain, h.shapes, h.running⟩
  act ws i s hi h := h.of_hostOnly (hostAct_hostOnly ws i s hi)
  reset _ _ _ l _ _ := buffersOk_blockReset _ l

/-- A command runs, and `A` holds of the valid bits, the buffers and the latched dimensions. -/
def During (w : Word) (A : Valid → Bufs → Dims → Prop) (s : State) : Prop := RunsWord w s ∧ A s.valid s.bufs s.dims

theorem lands_during (w : Word) (A : Valid → Bufs → Dims → Prop) : Lands (During w A) BuffersOk where
  script _ _ h := h
  act ws i s hi h := by
    have hh := hostAct_hostOnly ws i s hi
    refine ⟨h.1.of_phase_eq (hh.phase h.1.busy), ?_⟩
    rw [hh.valid, hh.bufs, hh.dims]
    exact h.2
  reset _ _ _ l _ _ := buffersOk_blockReset _ l

theorem buffersOk_endCommand {s : State} (h : Chained s.valid s.bufs s.dims) : BuffersOk (endCommand s) :=
  buffersOk_of_not_running (fun w => not_runsWord_endCommand w s) h

theorem passes_during (w : Word) (A : Valid → Bufs → Dims → Prop) : Passes (During w A) BuffersOk where
  land ws s h := land_sat (lands_during w A) ws s h
  abandon s h := abandon_sat (P := During w fun v _ _ => v = Valid.none) (lands_during w _) lands_buffersOk s ⟨h.1, rfl⟩
    (fun _ h => h) (fun _ h => buffersOk_endCommand (h.2 ▸ chained_none _ _)) fun _ h => h
  row stage row _ h := ⟨h.1.atRow stage row, h.2⟩

section
variable {w : Word} {A : Valid → Bufs → Dims → Prop} (hA : ∀ v b d, A v b d → Chained v b d)
include hA

theorem raiseError_during {P' : State → Prop} (k : ErrKind) (a : Word) (s : State) (h : During w A s) :
    (raiseError k a s).Sat P' BuffersOk :=
  raiseError_sat (P := During w A) (lands_during w A) lands_buffersOk k a s h (fun _ h => h) (fun _ h => h)
    (fun _ h => buffersOk_endCommand (hA _ _ _ h.2)) fun _ h => h

theorem complete_during (s : State) (h : During w A s) : (complete s).Sat BuffersOk BuffersOk :=
  complete_sat (P := During w A) (lands_during w A) lands_buffersOk s h
    fun _ h => buffersOk_endCommand (hA _ _ _ h.2)

theorem thenComplete_during {f : Flow} (hf : f.Sat (During w A) BuffersOk) :
    (thenComplete f).Sat BuffersOk BuffersOk :=
  thenComplete_passes (passes_during w A) hf (complete_during hA)

theorem writingRows_during (stage : Stage) (n : Nat) (writes : Nat → State → List PortWrite) {s : State}
    (h : During w A s) : (writingRows stage n writes s).Sat (During w A) BuffersOk := by
  refine writingRows_passes (passes_during w A) (raiseError_during hA .bus) stage n writes ?_ h
  refine fun _ _ _ _ v _ hb s h => writeBytes_sat (fun a b s _ h => ?_) v.addr v.bytes s hb h
  obtain ⟨b, n, u, e⟩ := engineWrite_state a b s
  rw [e]
  exact h

end

theorem betweenStages_during {w : Word} {A : Valid → Bufs → Dims → Prop} (s : State) (h : During w A s) :
    (betweenStages s).Sat (During w A) BuffersOk := betweenStages_passes (passes_during w A) h

/-! ### The stages -/

/-- IBUF is the one valid buffer. -/
def OnlyIbuf (v : Valid) (b : Bufs) (d : Dims) : Prop := v = ⟨true, false, false, false, false⟩ ∧ ShapedAs d b.ibuf

theorem OnlyIbuf.chained {v : Valid} {b : Bufs} {d : Dims} (h : OnlyIbuf v b d) : Chained v b d := by
  obtain ⟨rfl, hs⟩ := h
  constructor <;> simp [hs]

theorem stageSample_during {w : Word} {A : Valid → Bufs → Dims → Prop} (s : State) (h : During w A s) :
    (stageSample s).Sat (During w OnlyIbuf) BuffersOk := by
  let d0 : Dims := (latchDims (snapWork s) s).dims
  refine stageSample_passes (P0 := During w fun _ _ d => d = d0)
    (P := fun k => During w fun v b d => v = Valid.none ∧ Filling d0 k b.ibuf (ShapedAs d0) d)
    (passes_during w _) (fun _ => passes_during w _) (fun _ a s h => ?_) (fun _ _ _ h => h) ⟨h.1, rfl⟩ ?_ ?_ ?_
  · exact raiseError_during (A := fun v _ _ => v = Valid.none) (fun _ _ _ hv => hv ▸ chained_none _ _) .bus a s
      ⟨h.1, h.2.1⟩
  · exact fun s h => ⟨h.1, rfl, h.2, rfl, List.forall_mem_nil _, fun _ hm => hm⟩
  · intro k s s' r h h' hr
    refine ⟨h'.1, h'.2.1, h'.2.2.push r ?_ fun _ hm => hm⟩
    rw [h'.2.2.dims, ← h.2.2.dims]
    exact hr
  · intro s s' h h'
    obtain ⟨hw, hv, hf⟩ := h'
    have hn : workH s = dimHi d0.work := by
      rw [← h.2]
      rfl
    rw [hn] at hf
    refine ⟨hw, by rw [hv]; rfl, ?_⟩
    show ShapedAs s'.dims s'.bufs.ibuf
    rw [hf.dims]
    exact hf.filled

theorem zeroAreaSample_during {w : Word} {A : Valid → Bufs → Dims → Prop} (s : State) (h : During w A s) :
    (zeroAreaSample s).Sat (During w OnlyIbuf) BuffersOk := by
  refine sat_andThen ((passes_during w fun _ _ d => d.work = 0).land [] (latchDims 0 s) ⟨h.1, rfl⟩) fun s1 h1 => ?_
  refine ⟨h1.1, rfl, ?_⟩
  show ShapedAs s1.dims []
  rw [ShapedAs, h1.2]
  exact ⟨rfl, List.forall_mem_nil _⟩

/-- The chain holds and goes as far as TBUF, MBUF, DBUF or CBUF. -/
def ToTbuf (v : Valid) (b : Bufs) (d : Dims) : Prop := Chained v b d ∧ v.tbuf = true
def ToMbuf (v : Valid) (b : Bufs) (d : Dims) : Prop := Chained v b d ∧ v.mbuf = true
def ToDbuf (v : Valid) (b : Bufs) (d : Dims) : Prop := Chained v b d ∧ v.dbuf = true
def ToCbuf (v : Valid) (b : Bufs) (d : Dims) : Prop := Chained v b d ∧ v.cbuf = true

theorem stageTonemap_during {w : Word} (s : State) (h : During w (fun v b d => Chained v b d ∧ v.ibuf = true) s) :
    (stageTonemap s).Sat (During w ToTbuf) BuffersOk := by
  have h0 : During w (fun v b d => (Chained v b d ∧ v.ibuf = true) ∧ d = s.dims) (buildIfNeeded s) := by
    unfold buildIfNeeded
    split
    · exact ⟨h.1, h.2, rfl⟩
    · exact ⟨h.1, h.2, rfl⟩
  refine stageTonemap_passes
    (P := fun k => During w fun v b d =>
      Filling s.dims k b.tbuf (fun m => Chained { v with tbuf := true } { b with tbuf := m } s.dims) d)
    (passes_during w _) (fun _ => passes_during w _) h0 ?_ ?_ ?_
  · rintro s1 ⟨hw, ⟨hc, hi⟩, hd⟩
    refine ⟨hw, hd, rfl, List.forall_mem_nil _, fun m hm => ?_⟩
    constructor
    · simp [hi]
    · exact ⟨fun _ => hd ▸ hc.shapes.1 hi, fun _ => hm, nofun, nofun, nofun⟩
  · exact fun y s1 h1 => ⟨h1.1, h1.2.push _ (length_rowOf _ _) fun _ hm => hm⟩
  · rintro s1 s' ⟨-, -, hd⟩ ⟨hw, hf⟩
    have hn : workH s1 = dimHi s.dims.work := by
      rw [← hd]
      rfl
    rw [hn] at hf
    refine ⟨hw, ?_, rfl⟩
    show Chained { s'.valid with tbuf := true } s'.bufs s'.dims
    rw [hf.dims]
    exact hf.filled

theorem stageDepth_during {w : Word} (s : State) (h : During w ToMbuf s) :
    (stageDepth s).Sat (During w ToDbuf) BuffersOk := by
  obtain ⟨hw, hc, hm⟩ := h
  refine stageDepth_passes
    (P := fun k => During w fun v b d =>
      Filling s.dims k b.dbuf (fun m => Chained { v with dbuf := true } { b with dbuf := m } s.dims) d)
    (fun _ => passes_during w _) ⟨hw, rfl, rfl, List.forall_mem_nil _, fun m hfull => ?_⟩ ?_ ?_
  · obtain ⟨-, -, hmt, hti⟩ := hc.chain
    obtain ⟨hsi, hst, hsm, -, -⟩ := hc.shapes
    exact ⟨⟨nofun, fun _ => hm, hmt, hti⟩, hsi, hst, hsm, fun _ => hfull, nofun⟩
  · exact fun y s1 h1 => ⟨h1.1, h1.2.push _ (length_rowOf _ _) fun _ hm => hm⟩
  · rintro s' ⟨hw', hf⟩
    refine ⟨hw', ?_, rfl⟩
    show Chained { s'.valid with dbuf := true } s'.bufs s'.dims
    rw [hf.dims]
    exact hf.filled

theorem stagePalette_during {w : Word} (s : State) (h : During w ToDbuf s) :
    (stagePalette s).Sat (During w ToCbuf) BuffersOk := by
  obtain ⟨hw, hc, hd⟩ := h
  refine stagePalette_passes
    (P := fun k => During w fun v b d =>
      Filling s.dims k b.cbuf (fun m => Chained { v with cbuf := true } { b with cbuf := m } s.dims) d)
    (fun _ => passes_during w _) ⟨hw, rfl, rfl, List.forall_mem_nil _, fun m hfull => ?_⟩ ?_ ?_
  · obtain ⟨-, hdm, hmt, hti⟩ := hc.chain
    obtain ⟨hsi, hst, hsm, hsd, -⟩ := hc.shapes
    exact ⟨⟨fun _ => hd, hdm, hmt, hti⟩, hsi, hst, hsm, hsd, fun _ => hfull⟩
  · exact fun y s1 h1 => ⟨h1.1, h1.2.push _ (length_rowOf _ _) fun _ hm => hm⟩
  · rintro s' ⟨hw', hf⟩
    refine ⟨hw', ?_, rfl⟩
    show Chained { s'.valid with cbuf := true } s'.bufs s'.dims
    rw [hf.dims]
    exact hf.filled

/-! ### Between two steps of a command -/

/-- The start of the dither stage has TBUF, and its command is DITHER or RUN_FRAME. -/
theorem buffersOk_dispatchDither {w : Word} (hw : decodeCmd w = .dither ∨ decodeCmd w = .runFrame) (s : State)
    (h : During w ToTbuf s) : BuffersOk (dispatchDither s) := by
  obtain ⟨⟨stage, row, hp⟩, hc, ht⟩ := h
  obtain ⟨-, -, -, hti⟩ := hc.chain
  obtain ⟨hsi, hst, -, -, -⟩ := hc.shapes
  refine ⟨⟨nofun, nofun, nofun, hti⟩, ⟨hsi, hst, nofun, nofun, nofun⟩, fun w' stage' row' hp' => .inl ?_⟩
  rw [dispatchDither, atRow_run .dither 0 (startDither s) w stage row hp] at hp'
  cases hp'
  exact ⟨rfl, ht, hw⟩

/-- A RUN_FRAME after its dither stage has MBUF. -/
theorem buffersOk_atRow_depth {w : Word} (hw : decodeCmd w = .runFrame) (s : State) (h : During w ToMbuf s) :
    BuffersOk (atRow .depth 0 s) := by
  obtain ⟨⟨stage, row, hp⟩, hc, hm⟩ := h
  refine ⟨hc.chain, hc.shapes, fun w' stage' row' hp' => .inr ?_⟩
  rw [atRow_run .depth 0 s w stage row hp] at hp'
  cases hp'
  exact ⟨rfl, hm, hw⟩

theorem frameHead_during (s : State) {A : Valid → Bufs → Dims → Prop} (h : During 0x01 A s) :
    (frameHead s).Sat BuffersOk BuffersOk := by
  have sampled := sat_andThen (stageSample_during s h) betweenStages_during
  have toned := sat_andThen (sat_andThen sampled fun s1 h1 =>
    stageTonemap_during s1 ⟨h1.1, h1.2.chained, by rw [h1.2.1]⟩) betweenStages_during
  exact sat_andThen toned (buffersOk_dispatchDither (.inr rfl))

theorem frameTail_during {w : Word} (s : State) (h : During w ToMbuf s) :
    (frameTail s).Sat BuffersOk BuffersOk := by
  have shadowed := sat_andThen (stageDepth_during s h) betweenStages_during
  have coloured := sat_andThen (sat_andThen shadowed stagePalette_during) betweenStages_during
  exact thenComplete_during (A := ToCbuf) (fun _ _ _ h => h.1) (sat_andThen coloured fun s1 h1 =>
    writingRows_during (fun _ _ _ h => h.1) .upscale _ upscaleWrites h1)

/-- A variant fills MBUF and leaves the other buffers. -/
theorem runStyle_buffersOk {i : Instr} {setUp : State → State} {row : Nat → State → List Byte × State}
    (hv : IsVariant i setUp row) {w : Word} {s t : State} (hw : RunsWord w s) (h : Chained s.valid s.bufs s.dims)
    (htbuf : s.valid.tbuf = true) (ht : runStyle setUp row s = .next t) : BuffersOk t := by
  refine runStyle_passes
    (P := fun k => During w fun v b d =>
      Filling s.dims k b.mbuf (fun m => Chained { v with mbuf := true } { b with mbuf := m } s.dims) d)
    (P1 := During w ToMbuf) hv (fun _ => passes_during w _) (passes_during w _)
    (fun f => ⟨hw, rfl, rfl, List.forall_mem_nil _, fun m hfull => ?_⟩) (fun _ _ _ _ h1 hr =>
      ⟨h1.1, h1.2.push _ hr fun _ hm => hm⟩) (fun s' h' => ?_) (complete_during fun _ _ _ h => h.1)
    (fun s1 h1 hr => buffersOk_atRow_depth ?_ s1 h1) ht
  · obtain ⟨hcd, hdm, -, hti⟩ := h.chain
    obtain ⟨hsi, hst, -, hsd, hsc⟩ := h.shapes
    exact ⟨⟨hcd, fun _ => rfl, fun _ => htbuf, hti⟩, hsi, hst, fun _ => hfull, hsd, hsc⟩
  · obtain ⟨hw', hf⟩ := h'
    refine ⟨hw', ?_, rfl⟩
    show Chained { s'.valid with mbuf := true } s'.bufs s'.dims
    rw [hf.dims]
    exact hf.filled
  · rw [← h1.1.runWord]
    simpa [runsFrame] using hr

/-! ### Commands and steps -/

theorem runCommand_during {w : Word} {checks : State → List Check} {regions : State → List Region}
    {body : State → Flow} {s t : State} (h : Chained s.valid s.bufs s.dims)
    (hb : ∀ s1, During w Chained s1 → firstFail (checks s1) = none → (body s1).Sat BuffersOk BuffersOk)
    (ht : runCommand w checks regions body s = .next t) : BuffersOk t :=
  runCommand_passes (passes_during w Chained) ⟨runsWord_accept w s, h⟩ (raiseError_during fun _ _ _ h => h) hb
    (fun _ h => h) ht

theorem runDump_buffersOk {w : Word} {valid : Valid → Bool} {e : Nat} {elem : State → Nat → Nat → List Byte}
    {s t : State} (h : Chained s.valid s.bufs s.dims) (ht : runDump w valid e elem s = .next t) : BuffersOk t :=
  runCommand_during h (fun _ h1 _ => thenComplete_during (A := Chained) (fun _ _ _ h => h)
    (writingRows_during (fun _ _ _ h => h) .dump _ _ h1)) ht

theorem fails_of_firstFail_none {c : Check} {cs : List Check} (h : firstFail cs = none) (hc : c ∈ cs) :
    c.fails = false := (firstFail_none cs).1 h c hc

/-- SEQ (60_exceptions.md R403) passed: the input buffer is valid. -/
theorem valid_of_checkSeq {v : Bool} {cs : List Check} (h : firstFail (checkSeq v :: cs) = none) : v = true := by
  simpa [checkSeq] using fails_of_firstFail_none h List.mem_cons_self

theorem exec_command_buffersOk {i : Instr} {s t : State} (hi : isCommand i = true) (hm : i = .runFrame → NotMidFrame s)
    (h : Chained s.valid s.bufs s.dims) (ht : exec i s = .next t) : BuffersOk t := by
  have completing {w : Word} {f : Flow} (hf : f.Sat (During w Chained) BuffersOk) :=
    thenComplete_during (w := w) (A := Chained) (fun _ _ _ h => h) hf
  cases i with
  | nop =>
    exact runCommand_during (checks := fun _ => []) (body := fun s => thenComplete (.on s)) h
      (fun s1 h1 _ => completing (f := .on s1) h1) ht
  | illegalCmd w =>
    refine runCommand_during (checks := fun _ => [⟨true, .illegalCmd, 0⟩]) (regions := noRegions) (body := .on) h
      (fun s1 _ hc => ?_) ht
    cases hc
  | runFrame =>
    rw [exec, execRunFrame_of_notMidFrame (hm rfl)] at ht
    refine runCommand_during h (fun s1 h1 _ => ?_) ht
    split
    · exact thenComplete_during (A := OnlyIbuf) (fun _ _ _ => OnlyIbuf.chained) (zeroAreaSample_during s1 h1)
    · exact frameHead_during s1 h1
  | buildLut =>
    exact runCommand_during (body := fun s => thenComplete (.on (buildLut s))) h
      (fun s1 h1 _ => completing (f := .on (buildLut s1)) h1) ht
  | sample =>
    refine runCommand_during h (fun s1 h1 _ =>
      thenComplete_during (w := 0x03) (A := OnlyIbuf) (fun _ _ _ => OnlyIbuf.chained) ?_) ht
    split
    · exact zeroAreaSample_during s1 h1
    · exact stageSample_during s1 h1
  | tonemap =>
    exact runCommand_during h (fun s1 h1 hc => thenComplete_during (A := ToTbuf) (fun _ _ _ h => h.1)
      (stageTonemap_during s1 ⟨h1.1, h1.2, valid_of_checkSeq hc⟩)) ht
  | dither =>
    exact runCommand_during (body := fun s => .on (dispatchDither s)) h (fun s1 h1 hc =>
      buffersOk_dispatchDither (w := 0x05) (.inl rfl) s1 ⟨h1.1, h1.2, valid_of_checkSeq hc⟩) ht
  | depth =>
    exact runCommand_during h (fun s1 h1 hc => thenComplete_during (A := ToDbuf) (fun _ _ _ h => h.1)
      (stageDepth_during s1 ⟨h1.1, h1.2, valid_of_checkSeq hc⟩)) ht
  | palette =>
    exact runCommand_during h (fun s1 h1 hc => thenComplete_during (A := ToCbuf) (fun _ _ _ h => h.1)
      (stagePalette_during s1 ⟨h1.1, h1.2, valid_of_checkSeq hc⟩)) ht
  | upscale =>
    exact runCommand_during h (fun s1 h1 _ => completing (writingRows_during (fun _ _ _ h => h) .upscale _ _ h1)) ht
  | dumpIbuf | dumpTbuf | dumpMbuf | dumpDbuf | dumpCbuf => exact runDump_buffersOk h ht
  | edFloydSteinberg | edAtkinson | edJjn | edStucki | edBurkes | edSierra | edSierra2 | edSierraLite | ordBayer
  | ordKnoll | linesH | linesV | linesD | noiseBlue | noiseWhite | noiseStipple | noiseVoronoi | waveSinX | waveSinY
  | waveSinR | waveSqrX | waveSqrY | waveSqrR | patChecker | patGrid | patRandom | patGradient | vcOstromoukhov
  | sfcRiemersma | passthrough => cases hi

theorem exec_buffersOk {e : Encoded} {s t : State} (hf : fetch s = some e) (h : BuffersOk s)
    (ht : exec (decode e) s = .next t) : BuffersOk t := by
  rcases fetch_cases hf with ⟨hi, hm⟩ | ⟨he, w, row, hp, -⟩ | ⟨hi, w, row, hp⟩
  · exact exec_command_buffersOk hi hm h.chained ht
  · have hmbuf : s.valid.mbuf = true := by
      rcases h.running w .depth row hp with ⟨hstage, -⟩ | ⟨-, hmbuf, -⟩
      · cases hstage
      · exact hmbuf
    rw [he] at ht
    simp only [exec, execRunFrame, hp] at ht
    exact sat_out (frameTail_during (w := w) s ⟨⟨.depth, row, hp⟩, h.chained, hmbuf⟩) (fun _ h => h) ht
  · have htbuf : s.valid.tbuf = true := by
      rcases h.running w .dither row hp with ⟨-, htbuf, -⟩ | ⟨hstage, -⟩
      · exact htbuf
      · cases hstage
    obtain ⟨setUp, row', hv, he⟩ := runsVariant_of_not_isCommand hi s
    rw [he] at ht
    exact runStyle_buffersOk hv ⟨.dither, row, hp⟩ h.chained htbuf ht

/-- Settles O44: each stage clears the later valid bits, fills its output row by row and sets its bit when all rows are
there; every other end of a step clears all valid bits or leaves the chain as it is. -/
theorem bufferInvariant : Obligations.BufferInvariant := by
  intro s t h ht
  refine step_keeps (fun s i rest _ h => ?_) (fun e s t hf => exec_buffersOk hf) h ht
  have hs : BuffersOk { s with script := rest } := ⟨h.chain, h.shapes, h.running⟩
  cases i with
  | resetOn n torn =>
    rw [hostAct_resetOn_nil]
    exact buffersOk_of_not_running (fun _ ⟨_, _, h⟩ => Phase.noConfusion h) (chained_none _ _)
  | _ => exact hs.of_hostOnly (hostAct_hostOnly [] _ _ rfl)

/-! ### The state after reset -/

/-- Settles O46. -/
theorem resetInvariants : Obligations.ResetInvariants :=
  ⟨rfl, ((seedsOk_iff _).1 ⟨show (1 : Word) ≠ 0 by decide, cfgOk_reset, cfgOk_reset⟩).1,
    ((seedsOk_iff _).1 ⟨show (1 : Word) ≠ 0 by decide, cfgOk_reset, cfgOk_reset⟩).2, rfl, fun h => Bool.noConfusion h,
    buffersOk_of_not_running (fun _ ⟨_, _, h⟩ => Phase.noConfusion h) (chained_none _ _),
    flagsOk_of_not_running (fun _ ⟨_, _, h⟩ => Phase.noConfusion h) (fun h => Bool.noConfusion h.1)
      (fun h => Bool.noConfusion h) (fun h => Bool.noConfusion h) (Nat.zero_le 9) (fun h => Bool.noConfusion h)
      fun h => Bool.noConfusion h⟩

end Sys2Proof.Machine
end

section
/-! PROOFS. The commands that write no frame memory, when nothing lands on them (40_commands.md section 2, 41 to 43, 46,
47): each is acceptance, its one stage and completion, and leaves the whole state its statement gives. -/

namespace Sys2Proof.Machine

/-! ### From acceptance to completion -/

/-- A command whose checks pass and whose body goes on to completion, when nothing lands. -/
theorem runCommand_completes {w : Word} {checks : State → List Check} {regions : State → List Region}
    {body : State → Flow} {s t : State} (h : s.script = []) (hc : firstFail (checks (accept w s)) = none)
    (hr : (regions (accept w s)).any (meetsDevice (accept w s)) = false)
    (hb : body (accept w s) = thenComplete (.on t)) (ht : t.script = []) :
    runCommand w checks regions body s = .next (completed t) := by
  rw [runCommand_runs w checks regions body s h hc hr, hb, thenComplete_quiet t ht]
  rfl

/-- Completion with no word pending. -/
theorem completed_quiet {s : State} (h : s.status.pending = false) :
    completed s =
      { s with
        status := { s.status with done := true, pending := false }
        phase := .idle
        diff := ⟨[], none⟩
        race := ⟨[], []⟩ } := by
  simp [completed, endCommand, setDone, writesPerformed, h]

theorem quiet_accept {s : State} (w : Word) (h : Quiet s) : Quiet (accept w s) := h

/-- Settles O9: NOP has no check, and its body is the completion. -/
theorem nopOnlyCompletes : Obligations.NopOnlyCompletes := by
  intro s h
  have hrun := runCommand_completes (w := 0x00) (checks := fun _ => []) (regions := noRegions)
    (body := fun s => thenComplete (.on s)) (s := s) (t := accept 0x00 s) h rfl rfl rfl h
  rwa [completed_accept] at hrun

/-! ### The tone curve -/

theorem get_lutTable (k : Tone) (i : Fin 256) : (lutTable k).get i = lutEntry k i.val := by
  unfold lutTable
  generalize lutEntry k = entry
  simp

/-- The LUT RAM's entry as a vector's. -/
theorem lutGet_eq_get (ram : Vector Byte 256) (i : Byte) : lutGet ram i = ram.get (Fin.ofNat 256 i.toNat) := by
  have hi : i.toNat < 256 := i.isLt
  simp [lutGet, Vector.get, hi, Nat.mod_eq_of_lt hi]

theorem exec_buildLut_quiet (s : State) (h : s.script = []) (hc : s.cfg.tone.contrast.toInt < 259) :
    exec .buildLut s = .next { afterCommand s with lut := ⟨lutTable s.cfg.tone, true, s.cfg.tone⟩ } := by
  have hcheck : (checkContrast true (accept 0x02 s)).fails = false := decide_eq_false (Int.not_le.2 hc)
  exact runCommand_completes (w := 0x02) (checks := fun s => [checkContrast true s])
    (body := fun s => thenComplete (.on (buildLut s))) (t := buildLut (accept 0x02 s)) h
    ((firstFail_none _).2 fun c hm => by rwa [List.mem_singleton.1 hm]) rfl rfl h

/-- Settles O10: the build, and R220's arithmetic with the literals of R220 as the values they stand for. -/
theorem buildLutBuilds : Obligations.BuildLutBuilds := by
  refine ⟨exec_buildLut_quiet, fun K i => ?_⟩
  dsimp only
  rw [get_lutTable, lutEntry, contrastStep, splitStep, fClamp, ite_not, ← f0_eq, ← f50_eq, ← f128_eq, ← f255_eq,
    ← fHalf_eq]
  rfl

/-- The LUT at the start of the TONEMAP stage's rows (42_tone_curve_lut.md R223). -/
theorem buildIfNeeded_eq {s : State} (t : State) (hl : s.lut = t.lut) (hk : s.snap.tone = t.cfg.tone) :
    buildIfNeeded s = { s with lut := nextLut t } := by
  have hneed : buildNeeded s = true ↔ ¬lutFits t := by
    rw [lutFits, not_and_or, Bool.not_eq_true, buildNeeded, hl, hk]
    simp
  unfold buildIfNeeded nextLut
  by_cases hf : lutFits t
  · rw [if_neg (fun h => hneed.1 h hf), if_pos hf, ← hl]
  · rw [if_pos (hneed.2 hf), if_neg hf, ← hk]
    rfl

/-- The contrast check of a command that may build (R407). -/
theorem checkContrast_buildNeeded_accept (w : Word) {s : State} (h : lutFits s ∨ ¬pole s) :
    (checkContrast (buildNeeded (accept w s)) (accept w s)).fails = false := by
  rw [← Bool.not_eq_true]
  intro hf
  obtain ⟨hn, hp⟩ := (Bool.and_eq_true _ _).to_iff.1 hf
  exact h.elim ((buildNeeded_accept w s).1 hn) (fun hpole => hpole (of_decide_eq_true hp))

/-- Settles O13: the two checks pass, and the stage is one pass over IBUF. -/
theorem tonemapMapsIbuf : Obligations.TonemapMapsIbuf := by
  intro s hq hv hl
  obtain ⟨st, r, hstage⟩ := stageTonemap_quiet (accept 0x04 s) 0x04 .start 0 hq rfl
  rw [buildIfNeeded_eq (s := accept 0x04 s) s rfl rfl] at hstage
  have hc : firstFail [checkSeq s.valid.ibuf, checkContrast (buildNeeded (accept 0x04 s)) (accept 0x04 s)] = none := by
    rw [firstFail_cons, firstFail_cons, checkContrast_buildNeeded_accept 0x04 hl]
    simp [checkSeq, hv]
  refine (runCommand_completes (w := 0x04) hq.1 hc rfl (congrArg thenComplete hstage) (by exact hq.1)).trans ?_
  simp [completed_quiet, hq.2, afterCommand, lutGet_eq_get, hv, workW, workH]

/-! ### The dither stage starts -/

theorem styleUnknown_eq (c : Byte) : styleUnknown c = unassignedCode c := by
  rw [Bool.eq_iff_iff]
  exact decide_eq_true_iff.trans (decodeStyle_eq_passthrough_iff c)

theorem msizeFallback_eq (code msize : Byte) :
    msizeFallback code msize = decide (code = 0x20 ∧ msize ∉ ([2, 4, 8, 16] : List Byte)) := by
  have hne (n : Nat) (hn : n < 256) : msize.toNat = n ↔ msize = BitVec.ofNat 8 n := by
    rw [← BitVec.toNat_inj, BitVec.toNat_ofNat, Nat.mod_eq_of_lt hn]
  rw [Bool.eq_iff_iff]
  simp [msizeFallback, msizeIsBayer, hne, and_assoc]

/-- Settles O14: `exec_dither_quiet`, with the two flags of R251 as the statement writes them. -/
theorem ditherStarts : Obligations.DitherStarts := by
  intro s h hv hp
  rw [exec_dither_quiet s h hv hp]
  simp [dispatchDither, startDither, atRow, accept, styleUnknown_eq, msizeFallback_eq]
  rfl

/-! ### The depth shadow and the palette -/

/-- Settles O15: the check passes, and the stage is one pass over MBUF. -/
theorem depthShadows : Obligations.DepthShadows := by
  intro s hq hv
  obtain ⟨st, r, hstage⟩ := stageDepth_quiet (accept 0x06 s) 0x06 .start 0 hq rfl
  have hc : firstFail [checkSeq s.valid.mbuf] = none := by simp [checkSeq, hv]
  refine (runCommand_completes (w := 0x06) hq.1 hc rfl (congrArg thenComplete hstage) (by exact hq.1)).trans ?_
  simp [completed_quiet, hq.2, afterCommand, workW, workH, depthPixel]
  rfl

/-- Settles O16: the two checks pass, and the stage is one pass over DBUF with the interpolation of R352. -/
theorem paletteInterpolates : Obligations.PaletteInterpolates := by
  intro s hq hv h1 h16
  obtain ⟨st, r, hstage⟩ := stagePalette_quiet (accept 0x07 s) 0x07 .start 0 hq rfl
  have hc : firstFail [checkSeq s.valid.dbuf, checkPalette (accept 0x07 s)] = none := by
    rw [← reported_eq_none_iff, reported_checkSeq, reported_checkPalette, hv, if_neg (by simp), if_neg (by omega),
      reported_nil]
  refine (runCommand_completes (w := 0x07) hq.1 hc rfl (congrArg thenComplete hstage) (by exact hq.1)).trans ?_
  rw [completed_quiet (s := { accept 0x07 s with bufs := _, valid := _, phase := _ }) hq.2, afterCommand, hq.2]
  rfl

end Sys2Proof.Machine
end

section
/-! PROOFS. SAMPLE, and RUN_FRAME to the dispatch of its variant, when nothing lands and every read goes through
(41_downsampler.md, 40_commands.md section 3). -/

namespace Sys2Proof.Machine

/-! ### Rows of a buffer -/

theorem rows_congr {α : Type} {width height : Nat} {f g : Nat → Nat → α}
    (h : ∀ x y, x < width → y < height → f x y = g x y) : rows width height f = rows width height g :=
  List.map_congr_left fun y hy => List.map_congr_left fun x hx => h x y (List.mem_range.1 hx) (List.mem_range.1 hy)

theorem getD_rows {α : Type} {width height : Nat} (f : Nat → Nat → α) (d : α) {x y : Nat} (hx : x < width)
    (hy : y < height) : ((rows width height f).getD y []).getD x d = f x y := by
  simp [rows, hx, hy]

theorem px_rows {width height : Nat} (f : Nat → Nat → Byte) {x y : Nat} (hx : x < width) (hy : y < height) :
    px (rows width height f) x y = f x y := getD_rows f 0 hx hy

/-! ### Dimensions -/

theorem mkDim_toNat (w h : Nat) : (mkDim w h).toNat = h % 65536 * 65536 + w % 65536 := by
  have hh := Nat.mod_lt h (show 0 < 65536 by decide)
  have hw := Nat.mod_lt w (show 0 < 65536 by decide)
  rw [mkDim, BitVec.toNat_ofNat, Nat.mod_eq_of_lt (by omega)]

theorem dimLo_mkDim {w : Nat} (h : Nat) (hw : w < 65536) : dimLo (mkDim w h) = w := by
  rw [dimLo, mkDim_toNat]
  omega

theorem dimHi_mkDim (w : Nat) {h : Nat} (hh : h < 65536) : dimHi (mkDim w h) = h := by
  rw [dimHi, mkDim_toNat]
  omega

/-- WORK_DIM as the concatenation of its two fields (R201). -/
theorem mkDim_eq_append (w h : Nat) : mkDim w h = BitVec.ofNat 16 h ++ BitVec.ofNat 16 w := by
  have hw := Nat.mod_lt w (show 0 < 2 ^ 16 by decide)
  apply BitVec.eq_of_toNat_eq
  rw [mkDim_toNat, BitVec.toNat_append, BitVec.toNat_ofNat, BitVec.toNat_ofNat, ← Nat.shiftLeft_add_eq_or_of_lt hw,
    Nat.shiftLeft_eq]
  rfl

/-! ### The source that fits -/

/-- A sampled place lies in the source (R201, R204). -/
theorem sampled_lt {len scale x : Nat} (hlen : 0 < len) (hs : 0 < scale) (hx : x < max 1 (len / scale)) :
    x * scale < len := by
  rcases Nat.eq_zero_or_pos x with rfl | hpos
  · omega
  · have hle : (x + 1) * scale ≤ len := (Nat.le_div_iff_mul_le hs).1 (by omega)
    rw [Nat.add_mul] at hle
    omega

theorem pixelAddr_le {s : State} (hf : SourceFits s) {x y : Nat} (hx : x < nextW s) (hy : y < nextH s) :
    pixelAddr s x y + 4 ≤ s.cfg.srcBase.toNat + 4 * cfgW s * cfgH s := by
  obtain ⟨hw, hh, hs, -, -, -⟩ := hf
  have hx' := sampled_lt hw hs hx
  have hy' := sampled_lt hh hs hy
  have hrows : (y * cfgScale s + 1) * cfgW s ≤ cfgH s * cfgW s := Nat.mul_le_mul_right _ hy'
  rw [Nat.add_mul, Nat.one_mul] at hrows
  rw [Nat.mul_assoc 4, Nat.mul_comm (cfgW s)]
  show s.cfg.srcBase.toNat + 4 * (y * cfgScale s * cfgW s + x * cfgScale s) + 4 ≤ _
  omega

theorem nextW_lt {s : State} (hf : SourceFits s) : nextW s < 65536 := by
  have := s.plat.maxWW.isLt
  obtain ⟨-, -, -, hle, -⟩ := hf
  omega

theorem nextH_lt {s : State} (hf : SourceFits s) : nextH s < 65536 := by
  have := s.plat.maxWH.isLt
  obtain ⟨-, -, -, -, hle, -⟩ := hf
  omega

theorem workW_startSample (w : Word) {s : State} (hf : SourceFits s) : workW (startSample (accept w s)) = nextW s :=
  dimLo_mkDim _ (nextW_lt hf)

theorem workH_startSample (w : Word) {s : State} (hf : SourceFits s) : workH (startSample (accept w s)) = nextH s :=
  dimHi_mkDim _ (nextH_lt hf)

theorem zeroArea_accept_of_fits (w : Word) {s : State} (hf : SourceFits s) : ¬zeroArea (accept w s) = true := by
  obtain ⟨hw, hh, -⟩ := hf
  rw [zeroArea_iff]
  show ¬(cfgW s = 0 ∨ cfgH s = 0)
  omega

/-! ### The SAMPLE stage after acceptance -/

/-- What a SAMPLE stage latches from the live configuration (R201). -/
def sampledDims (s : State) : Dims :=
  ⟨BitVec.ofNat 16 (nextH s) ++ BitVec.ofNat 16 (nextW s), s.cfg.srcDim, s.cfg.scale⟩

theorem latchDims_accept (w : Word) (s : State) :
    latchDims (snapWork (accept w s)) (accept w s) = { accept w s with dims := sampledDims s } := by
  rw [sampledDims, ← mkDim_eq_append]
  rfl

/-- IBUF as a SAMPLE stage fills it from the live configuration (R204, R205). -/
def sampledRows (s : State) : List (List Byte) :=
  rows (nextW s) (nextH s) fun x y => lumAt s.mem (pixelAddr s x y)

/-- The state after the SAMPLE stage of the accepted word `w`, its phase apart. -/
def afterSample (w : Word) (p : Phase) (s : State) : State :=
  { accept w s with
    dims := sampledDims s
    bufs := { s.bufs with ibuf := sampledRows s }
    valid := ⟨true, false, false, false, false⟩
    phase := p }

theorem stageSample_accept (w : Word) {s : State} (hq : Quiet s) (hf : SourceFits s)
    (hr : ∀ x, x < nextW s → ∀ y, y < nextH s → refuses s (pixelAddr s x y) 4 .read = false) :
    ∃ st r, stageSample (accept w s) = .on (afterSample w (.run w st r) s) := by
  obtain ⟨st, r, h⟩ := stageSample_quiet (accept w s) w .start 0 (quiet_accept w hq) rfl rfl (by
    intro x y hx hy
    rw [workW_startSample w hf] at hx
    rw [workH_startSample w hf] at hy
    exact ⟨(pixelAddr_le hf hx hy).trans hf.2.2.2.2.2, hr x hx y hy⟩)
  refine ⟨st, r, ?_⟩
  rw [h, workW_startSample w hf, workH_startSample w hf, startSample, latchDims_accept]
  rfl

/-! ### SAMPLE -/

/-- A level clamped to 0..255, as the model's byte and as the integer's (R205). -/
theorem ofNat_min_toNat (v : Int) : BitVec.ofNat 8 (min v.toNat 255) = BitVec.ofInt 8 (max 0 (min v 255)) := by
  have hv : max 0 (min v 255) = ((min v.toNat 255 : Nat) : Int) := by omega
  rw [hv, BitVec.ofInt_natCast]

/-- R205 with its literals as the values they stand for. -/
theorem lum_eq_ofInt (r g b : Byte) :
    lum r g b = BitVec.ofInt 8 (max 0 (min (fFloor (fAdd (fAdd (fMul (fOfRat 299 1000) (fOfNat r.toNat))
      (fMul (fOfRat 587 1000) (fOfNat g.toNat))) (fMul (fOfRat 114 1000) (fOfNat b.toNat)))) 255)) := by
  rw [lum, ofNat_min_toNat, f0299_eq, f0587_eq, f0114_eq]

/-- The checks of SAMPLE pass on a source that fits (R203). -/
theorem firstFail_sampleChecks (w : Word) {s : State} (hf : SourceFits s) :
    firstFail (sampleChecks (accept w s)) = none := by
  obtain ⟨-, -, hs, hmw, hmh, hr⟩ := hf
  rw [← reported_eq_none_iff, sampleChecks, reported_checkScale, reported_checkDim, reported_checkRange,
    if_neg (by omega), if_neg (by omega), if_neg, reported_nil]
  exact Nat.not_lt.2 hr

/-- The body of SAMPLE on a source that fits, from acceptance. -/
theorem exec_sample_of_fits {s : State} (hs : s.script = []) (hf : SourceFits s) (ho : SourceOrdinary s) :
    exec .sample s = (thenComplete (stageSample (accept 0x03 s))).out := by
  have hz := zeroArea_accept_of_fits 0x03 hf
  have hrun : exec .sample s = (thenComplete
      (if zeroArea (accept 0x03 s) then zeroAreaSample (accept 0x03 s) else stageSample (accept 0x03 s))).out := by
    refine runCommand_runs 0x03 _ _ _ s hs ?_ ?_
    · rw [if_neg hz]
      exact firstFail_sampleChecks 0x03 hf
    · rw [if_neg hz]
      exact (Bool.or_false _).trans ho
  rw [hrun, if_neg hz]

/-- Settles O11: the checks pass, and the stage is one pass over the working cells. -/
theorem sampleFillsIbuf : Obligations.SampleFillsIbuf := by
  intro s hq hf ⟨ho, hr⟩
  obtain ⟨st, r, hstage⟩ := stageSample_accept 0x03 hq hf hr
  rw [exec_sample_of_fits hq.1 hf ho, hstage, thenComplete_quiet _ (by exact hq.1), out_on,
    completed_quiet (by exact hq.2)]
  simp only [← lum_eq_ofInt, afterCommand, hq.2]
  rfl

/-! ### RUN_FRAME to its dispatch -/

theorem FrameRuns.launches {s : State} (h : FrameRuns s) : FrameLaunches s := by
  obtain ⟨hf, ⟨ho, -⟩, ⟨⟨hd, -⟩, hm⟩, hl⟩ := h
  rw [FrameLaunches, Nat.mul_assoc]
  exact ⟨hf, ho, hd, hm, hl⟩

theorem firstFail_frameChecks {s : State} (h : FrameLaunches s) : firstFail (frameChecks (accept 0x01 s)) = none := by
  obtain ⟨hf, -, hd, -, hl, hp, h1, h16⟩ := h
  obtain ⟨-, -, hs, hmw, hmh, hr⟩ := hf
  have hpole : ¬(¬lutFits s ∧ pole s) := fun ⟨hn, hc⟩ => hl.elim hn fun h => h hc
  have hps : s.cfg.pscale ≠ 0 := by
    rintro he
    rw [he] at hp
    exact absurd hp (by decide)
  have hsrc : ¬4294967296 < (accept 0x01 s).snap.srcBase.toNat + sourceSize (accept 0x01 s) := Nat.not_lt.2 hr
  have hdst : ¬4294967296 < (accept 0x01 s).snap.dstBase.toNat + sourceSize (accept 0x01 s) := Nat.not_lt.2 hd
  rw [← reported_eq_none_iff, frameChecks, sampleChecks, List.cons_append, List.cons_append, List.cons_append,
    List.nil_append, reported_checkScale, reported_checkDim, reported_checkRange, reported_checkRange,
    reported_checkContrast _ _ (buildNeeded_accept _ s), reported_checkPscale, reported_checkPalette, reported_nil,
    if_neg (by omega), if_neg (by omega), if_neg hsrc, if_neg hdst, if_neg hpole, if_neg hps, if_neg (by omega)]

/-- RUN_FRAME from acceptance, where its checks pass over ordinary memory. -/
theorem exec_runFrame_of_launches {s : State} (hs : s.script = []) (hm : NotMidFrame s) (h : FrameLaunches s) :
    exec .runFrame s = (frameHead (accept 0x01 s)).out := by
  have hz := zeroArea_accept_of_fits 0x01 h.1
  obtain ⟨-, ho, -, hd, -⟩ := id h
  rw [exec, execRunFrame_of_notMidFrame hm, runCommand_runs 0x01 _ _ _ s hs, if_neg hz]
  · rw [if_neg hz]
    exact firstFail_frameChecks h
  · rw [if_neg hz, List.any_cons, List.any_cons, List.any_nil, Bool.or_false, Bool.or_eq_false_iff]
    exact ⟨ho, hd⟩

/-- TBUF as the TONEMAP stage of a frame fills it. -/
def tonedRows (s : State) : List (List Byte) :=
  rows (nextW s) (nextH s) fun x y => lutGet (nextLut s).ram (lumAt s.mem (pixelAddr s x y))

/-- The state before the dither stage of a frame, its phase apart. -/
def afterTonemap (w : Word) (p : Phase) (s : State) : State :=
  { afterSample w p s with
    lut := nextLut s
    bufs := { s.bufs with ibuf := sampledRows s, tbuf := tonedRows s }
    valid := ⟨true, true, false, false, false⟩ }

theorem workW_afterSample (w : Word) (p : Phase) {s : State} (hf : SourceFits s) :
    workW (afterSample w p s) = nextW s := by
  rw [← workW_startSample w hf, startSample, latchDims_accept]
  rfl

theorem workH_afterSample (w : Word) (p : Phase) {s : State} (hf : SourceFits s) :
    workH (afterSample w p s) = nextH s := by
  rw [← workH_startSample w hf, startSample, latchDims_accept]
  rfl

theorem stageTonemap_afterSample (w : Word) (st : Stage) (r : Nat) {s : State} (hq : Quiet s) (hf : SourceFits s) :
    ∃ st' r', stageTonemap (afterSample w (.run w st r) s) = .on (afterTonemap w (.run w st' r') s) := by
  obtain ⟨st', r', h⟩ := stageTonemap_quiet (afterSample w (.run w st r) s) w st r hq rfl
  rw [buildIfNeeded_eq (s := afterSample w (.run w st r) s) s rfl rfl, workW_afterSample w _ hf,
    workH_afterSample w _ hf] at h
  have htoned : (rows (nextW s) (nextH s) fun x y => lutGet (nextLut s).ram (px (sampledRows s) x y)) = tonedRows s :=
    rows_congr fun x y hx hy => congrArg (lutGet (nextLut s).ram) (px_rows _ hx hy)
  refine ⟨st', r', h.trans ?_⟩
  rw [afterTonemap, ← htoned]
  rfl

theorem frameHead_accept {s : State} (hq : Quiet s) (hf : SourceFits s)
    (hr : ∀ x, x < nextW s → ∀ y, y < nextH s → refuses s (pixelAddr s x y) 4 .read = false) :
    ∃ st r, frameHead (accept 0x01 s) = .on (dispatchDither (afterTonemap 0x01 (.run 0x01 st r) s)) := by
  obtain ⟨st1, r1, h1⟩ := stageSample_accept 0x01 hq hf hr
  obtain ⟨st2, r2, h2⟩ := stageTonemap_afterSample 0x01 st1 r1 hq hf
  refine ⟨st2, r2, ?_⟩
  rw [frameHead, h1, andThen_on, betweenStages_quiet _ (by exact hq), andThen_on, h2, andThen_on,
    betweenStages_quiet _ (by exact hq), andThen_on]

/-- Settles O19: the checks pass, and the two stages follow one another. -/
theorem frameHead_runs_to_dispatch : Obligations.FrameHead := by
  intro s hq hm hrun
  obtain ⟨st, r, h⟩ := frameHead_accept hq hrun.1 hrun.2.1.2
  rw [exec_runFrame_of_launches hq.1 hm hrun.launches, h, out_on]
  simp only [← lutGet_eq_get, ← styleUnknown_eq, ← msizeFallback_eq]
  rfl

end Sys2Proof.Machine
end

section
/-! PROOFS. Landing points counted (the model's choice, log entry 7): a world is what the script still holds while a
command runs, and an action `Takes` a number of points when it goes on and uses up as many. Nothing landing at all, a
word that lands at one point and a reset that lands at one are worlds of the same kind, so each stage is followed
once. -/

namespace Sys2Proof.Machine

/-! ### Worlds -/

/-- What the world outside still does, and what it has done to the pending word: `passes` landing points pass before
`last` lands. -/
structure World where
  passes : Nat
  last : List HostItem
  pendCmd : Word
  pending : Bool

namespace World

def script (σ : World) : List HostItem := List.replicate σ.passes .pass ++ σ.last

/-- The world after `n` landing points; a word that lands becomes the pending one. -/
def after (σ : World) (n : Nat) : World :=
  if n ≤ σ.passes then { σ with passes := σ.passes - n }
  else
    match σ.last with
    | .write _ _ w :: _ => ⟨0, [], w, true⟩
    | _ => { σ with passes := 0 }

/-- At the next `n` landing points at most a word lands, and none where reset is asserted. -/
def Lets (σ : World) (inReset : Bool) (n : Nat) : Prop :=
  n ≤ σ.passes ∨ σ.last = [] ∨ inReset = false ∧ ∃ w, σ.last = [.write 0x010 4 w]

/-- A world in which nothing lands. -/
def still (pendCmd : Word) (pending : Bool) : World := ⟨0, [], pendCmd, pending⟩

/-- A world in which the word `w` lands at point `m` and no word is pending before. -/
def bringing (m : Nat) (w pendCmd : Word) : World := ⟨m, [.write 0x010 4 w], pendCmd, false⟩

theorem after_of_le {σ : World} {n : Nat} (h : n ≤ σ.passes) : σ.after n = { σ with passes := σ.passes - n } :=
  if_pos h

@[simp] theorem after_zero (σ : World) : σ.after 0 = σ := after_of_le (Nat.zero_le _)

theorem after_still (c : Word) (b : Bool) (n : Nat) : (still c b).after n = still c b := by
  unfold after still
  split <;> simp

theorem after_bringing {m n : Nat} (w c : Word) (h : m < n) : (bringing m w c).after n = still w true :=
  if_neg (Nat.not_le.2 h)

theorem lets_still (c : Word) (b r : Bool) (n : Nat) : (still c b).Lets r n := .inr (.inl rfl)

theorem lets_bringing (m : Nat) (w c : Word) (n : Nat) : (bringing m w c).Lets false n := .inr (.inr ⟨rfl, w, rfl⟩)

theorem Lets.mono {σ : World} {r : Bool} {n m : Nat} (h : σ.Lets r n) (hm : m ≤ n) : σ.Lets r m :=
  h.imp (fun hn => hm.trans hn) id

theorem Lets.after {σ : World} {r : Bool} {n m : Nat} (h : σ.Lets r (n + m)) : (σ.after n).Lets r m := by
  by_cases hn : n ≤ σ.passes
  · rw [after_of_le hn]
    exact h.imp (fun hle => Nat.le_sub_of_add_le (by omega)) id
  · rcases h with h | h | ⟨hr, w, h⟩
    · omega
    · exact .inr (.inl (by simp [World.after, hn, h]))
    · exact .inr (.inl (by simp [World.after, hn, h]))

theorem after_after {σ : World} {r : Bool} {n m : Nat} (h : σ.Lets r (n + m)) :
    (σ.after n).after m = σ.after (n + m) := by
  by_cases hn : n ≤ σ.passes
  · rw [after_of_le hn]
    by_cases hm : n + m ≤ σ.passes
    · rw [after_of_le hm, after_of_le (by simpa using Nat.le_sub_of_add_le (by omega))]
      simp [Nat.sub_sub]
    · have hm' : ¬m ≤ σ.passes - n := by omega
      simp [World.after, hm, hm']
  · rcases h with h | h | ⟨hr, w, h⟩
    · omega
    · have hm : ¬n + m ≤ σ.passes := by omega
      by_cases h0 : m = 0 <;> simp [World.after, hn, hm, h]
    · have hm : ¬n + m ≤ σ.passes := by omega
      by_cases h0 : m = 0 <;> simp [World.after, hn, hm, h]

/-- A word that is pending stays pending. -/
theorem pending_mono {σ : World} {n m : Nat} (hm : n ≤ m) (h : (σ.after m).pending = false) :
    (σ.after n).pending = false := by
  by_cases hle : m ≤ σ.passes
  · rw [after_of_le hle] at h
    rw [after_of_le (hm.trans hle)]
    exact h
  · by_cases hn : n ≤ σ.passes
    · rw [after_of_le hn]
      unfold after at h
      rw [if_neg hle] at h
      split at h
      · cases h
      · exact h
    · unfold after at h ⊢
      rw [if_neg hle] at h
      rwa [if_neg hn]

end World

/-- The state `s` in a world. -/
def inWorld (σ : World) (s : State) : State :=
  { s with script := σ.script, pendCmd := σ.pendCmd, status := { s.status with pending := σ.pending } }

theorem inWorld_eq_self {σ : World} {s : State} (hs : s.script = σ.script) (hc : s.pendCmd = σ.pendCmd)
    (hp : s.status.pending = σ.pending) : inWorld σ s = s := by
  rw [inWorld, ← hs, ← hc, ← hp]

theorem inWorld_bringing {s : State} {m : Nat} {w : Word} (h : s.script = wordAt m w)
    (hp : s.status.pending = false) : inWorld (World.bringing m w s.pendCmd) s = s := inWorld_eq_self h rfl hp

/-- A landing point in a world, on a running command. -/
theorem land_inWorld {σ : World} (ws : List PortWrite) {s : State} (hb : busy s = true) (hl : σ.Lets s.inReset 1) :
    land ws (inWorld σ s) = .on (inWorld (σ.after 1) s) := by
  obtain ⟨n, last, c, b⟩ := σ
  cases n with
  | succ n =>
    rw [land_of_pass ws _ (List.replicate n .pass ++ last) rfl]
    simp [inWorld, World.after, World.script]
  | zero =>
    rcases hl with hl | hl | ⟨hr, w, hl⟩
    · cases hl
    · subst hl
      rw [land_quiet ws _ rfl]
      rfl
    · subst hl
      exact land_of_word ws (inWorld ⟨0, _, c, b⟩ s) w rfl hr hb

/-! ### Actions that take landing points -/

/-- In every world, `F` goes on from a state with `P` to one with `Q` and takes `n` landing points. -/
def Takes (r : Bool) (n : Nat) (F : State → Flow) (P Q : State → Prop) : Prop :=
  ∀ s σ, s.inReset = r → P s → σ.Lets r n →
    ∃ t, t.inReset = r ∧ Q t ∧ F (inWorld σ s) = .on (inWorld (σ.after n) t)

theorem takes_land {r : Bool} {P : State → Prop} (ws : State → List PortWrite) (hb : ∀ s, P s → busy s = true) :
    Takes r 1 (fun s => land (ws s) s) P P := fun s σ hr hp hl =>
  ⟨s, hr, hp, land_inWorld _ (hb s hp) (by rwa [hr])⟩

/-- An update of the state that the world does not touch takes no point. -/
theorem takes_on {r : Bool} {P Q : State → Prop} {f : State → State} (hf : ∀ s σ, f (inWorld σ s) = inWorld σ (f s))
    (hr : ∀ s, (f s).inReset = s.inReset) (h : ∀ s, P s → Q (f s)) : Takes r 0 (fun s => .on (f s)) P Q :=
  fun s σ hs hp _ => ⟨f s, (hr s).trans hs, h s hp, by dsimp only; rw [World.after_zero, hf]⟩

theorem Takes.andThen {r : Bool} {n m : Nat} {F G : State → Flow} {P Q R : State → Prop} (hF : Takes r n F P Q)
    (hG : Takes r m G Q R) : Takes r (n + m) (fun s => (F s).andThen G) P R := by
  intro s σ hs hp hl
  obtain ⟨t, ht, hq, hFt⟩ := hF s σ hs hp (hl.mono (Nat.le_add_right n m))
  obtain ⟨u, hu, hR, hGu⟩ := hG t (σ.after n) ht hq hl.after
  exact ⟨u, hu, hR, by dsimp only; rw [hFt, andThen_on, hGu, World.after_after hl]⟩

/-- Before an action, an update of the state that the world does not touch. -/
theorem Takes.comp {r : Bool} {n : Nat} {F : State → Flow} {P Q R : State → Prop} (hF : Takes r n F Q R)
    {f : State → State} (hf : ∀ s σ, f (inWorld σ s) = inWorld σ (f s)) (hr : ∀ s, (f s).inReset = s.inReset)
    (h : ∀ s, P s → Q (f s)) : Takes r n (fun s => F (f s)) P R := by
  intro s σ hs hp hl
  obtain ⟨t, ht, hR, hFt⟩ := hF (f s) σ ((hr s).trans hs) (h s hp) hl
  exact ⟨t, ht, hR, by dsimp only; rw [hf, hFt]⟩

theorem Takes.mono {r : Bool} {n : Nat} {F : State → Flow} {P P' Q Q' : State → Prop} (h : Takes r n F P Q)
    (hP : ∀ s, P' s → P s) (hQ : ∀ s, Q s → Q' s) : Takes r n F P' Q' := fun s σ hs hp hl =>
  let ⟨t, ht, hq, hF⟩ := h s σ hs (hP s hp) hl
  ⟨t, ht, hQ t hq, hF⟩

/-! ### Rows -/

theorem andThen_assoc (f : Flow) (g h : State → Flow) :
    (f.andThen g).andThen h = f.andThen fun s => (g s).andThen h := by
  cases f <;> rfl

/-- One row of a stage with its two landing points, before its row boundary. -/
def rowStep (stage : Stage) (writes : Nat → State → List PortWrite) (body : Nat → State → Flow) (y : Nat) (s : State) :
    Flow :=
  ((land (writes y (atRow stage y s)) (atRow stage y s)).andThen (body y)).andThen (land [])

theorem rowLoop_singleton (stage : Stage) (writes : Nat → State → List PortWrite) (body : Nat → State → Flow) (y : Nat)
    (s : State) : rowLoop stage writes body [y] s = rowStep stage writes body y s := by
  unfold rowLoop rowStep
  congr 1
  funext s1
  cases land [] s1 <;> rfl

theorem rowLoop_cons_cons (stage : Stage) (writes : Nat → State → List PortWrite) (body : Nat → State → Flow)
    (y y' : Nat) (ys : List Nat) (s : State) :
    rowLoop stage writes body (y :: y' :: ys) s =
      ((rowStep stage writes body y s).andThen boundary).andThen (rowLoop stage writes body (y' :: ys)) := by
  rw [rowLoop, rowStep]
  simp only [andThen_assoc]

theorem boundary_inWorld {σ : World} {s : State} (h : σ.pending = false) :
    boundary (inWorld σ s) = .on (inWorld σ s) := boundary_quiet _ h

/-- The rows before row `k + Y`, where no word is pending before it. -/
theorem rowLoop_skip {r : Bool} {p : Nat} {P : Nat → State → Prop} {stage : Stage}
    {writes : Nat → State → List PortWrite} {body : Nat → State → Flow} (Y n k : Nat) (hY : Y < n)
    (hrow : ∀ y, k ≤ y → y < k + Y → Takes r p (rowStep stage writes body y) (P y) (P (y + 1))) {σ : World} {s : State}
    (hs : s.inReset = r) (hP : P k s) (hl : σ.Lets r (Y * p)) (hpend : Y = 0 ∨ (σ.after (Y * p)).pending = false) :
    ∃ t, t.inReset = r ∧ P (k + Y) t ∧ rowLoop stage writes body (List.range' k n) (inWorld σ s)
      = rowLoop stage writes body (List.range' (k + Y) (n - Y)) (inWorld (σ.after (Y * p)) t) := by
  induction Y generalizing n k σ s with
  | zero => exact ⟨s, hs, hP, by simp⟩
  | succ Y ih =>
    have hnot : (σ.after ((Y + 1) * p)).pending = false := hpend.resolve_left (Nat.succ_ne_zero Y)
    rw [show (Y + 1) * p = p + Y * p by rw [Nat.add_mul, Nat.one_mul, Nat.add_comm]] at hl hnot ⊢
    obtain ⟨t, ht, hPt, hgo⟩ := hrow k (Nat.le_refl k) (by omega) s σ hs hP (hl.mono (Nat.le_add_right _ _))
    obtain ⟨n, rfl⟩ : ∃ m, n = m + 1 + 1 := ⟨n - 2, by omega⟩
    obtain ⟨u, hu, hPu, hrest⟩ := ih (n + 1) (k + 1) (by omega) (fun y h1 h2 => hrow y (by omega) (by omega)) ht hPt
      hl.after (.inr (by rwa [World.after_after hl]))
    refine ⟨u, hu, by rwa [show k + (Y + 1) = k + 1 + Y by omega], ?_⟩
    rw [List.range'_succ, List.range'_succ, rowLoop_cons_cons, hgo, andThen_on,
      boundary_inWorld (World.pending_mono (Nat.le_add_right _ _) hnot), andThen_on, ← List.range'_succ, hrest,
      World.after_after hl, show k + (Y + 1) = k + 1 + Y by omega, show n + 1 + 1 - (Y + 1) = n + 1 - Y by omega]

/-- All rows of a stage, where no word is pending before the last of them. -/
theorem rowLoop_goes {r : Bool} {p : Nat} {P : Nat → State → Prop} {stage : Stage}
    {writes : Nat → State → List PortWrite} {body : Nat → State → Flow} {n : Nat}
    (hrow : ∀ y, y < n + 1 → Takes r p (rowStep stage writes body y) (P y) (P (y + 1))) {σ : World} {s : State}
    (hs : s.inReset = r) (hP : P 0 s) (hl : σ.Lets r ((n + 1) * p))
    (hpend : n = 0 ∨ (σ.after (n * p)).pending = false) :
    ∃ t, t.inReset = r ∧ P (n + 1) t ∧ rowLoop stage writes body (List.range (n + 1)) (inWorld σ s)
      = .on (inWorld (σ.after ((n + 1) * p)) t) := by
  have hlen : (n + 1) * p = n * p + p := Nat.succ_mul n p
  rw [hlen] at hl ⊢
  obtain ⟨t, ht, hPt, hskip⟩ := rowLoop_skip n (n + 1) 0 (Nat.lt_succ_self n) (fun y _ hy => hrow y (by omega)) hs hP
    (hl.mono (Nat.le_add_right _ _)) hpend
  rw [Nat.zero_add] at hPt
  obtain ⟨u, hu, hPu, hgo⟩ := hrow n (Nat.lt_succ_self n) t _ ht hPt hl.after
  refine ⟨u, hu, hPu, ?_⟩
  rw [List.range_eq_range', hskip, Nat.zero_add, show n + 1 - n = 1 by omega, List.range'_one, rowLoop_singleton, hgo,
    World.after_after hl]

/-- The row boundary after row `Y`, not the last, where a word is pending there and not before: the command is
abandoned. -/
theorem rowLoop_abandons {r : Bool} {p : Nat} {P : Nat → State → Prop} {stage : Stage}
    {writes : Nat → State → List PortWrite} {body : Nat → State → Flow} {n : Nat} (Y : Nat) (hY : Y + 1 < n)
    (hrow : ∀ y, y ≤ Y → Takes r p (rowStep stage writes body y) (P y) (P (y + 1))) {σ : World} {s : State} {w : Word}
    (hs : s.inReset = r) (hP : P 0 s) (hl : σ.Lets r ((Y + 1) * p))
    (hpend : Y = 0 ∨ (σ.after (Y * p)).pending = false) (hafter : σ.after ((Y + 1) * p) = World.still w true) :
    ∃ t, P (Y + 1) t ∧ rowLoop stage writes body (List.range n) (inWorld σ s)
      = .ended (.next (abandoned (inWorld (World.still w true) t))) := by
  have hlen : (Y + 1) * p = Y * p + p := Nat.succ_mul Y p
  rw [hlen] at hl hafter
  obtain ⟨t, ht, hPt, hskip⟩ := rowLoop_skip Y n 0 (by omega) (fun y _ hy => hrow y (by omega)) hs hP
    (hl.mono (Nat.le_add_right _ _)) hpend
  rw [Nat.zero_add] at hPt
  obtain ⟨u, hu, hPu, hgo⟩ := hrow Y (Nat.le_refl Y) t _ ht hPt hl.after
  refine ⟨u, hPu, ?_⟩
  obtain ⟨m, hm⟩ : ∃ m, n - Y = m + 1 + 1 := ⟨n - Y - 2, by omega⟩
  rw [List.range_eq_range', hskip, Nat.zero_add, hm, List.range'_succ, List.range'_succ, rowLoop_cons_cons, hgo,
    World.after_after hl, hafter, andThen_on, boundary, if_pos (by rfl), abandon_quiet _ rfl]
  rfl

/-- A row that ends the step, where no word is pending before it. -/
theorem rowLoop_ends {r : Bool} {p : Nat} {P : Nat → State → Prop} {stage : Stage}
    {writes : Nat → State → List PortWrite} {body : Nat → State → Flow} {n : Nat} {R : Result → Prop} (Y : Nat)
    (hY : Y < n) (hrow : ∀ y, y < Y → Takes r p (rowStep stage writes body y) (P y) (P (y + 1))) {σ : World} {s : State}
    (hs : s.inReset = r) (hP : P 0 s) (hl : σ.Lets r (Y * p)) (hpend : Y = 0 ∨ (σ.after (Y * p)).pending = false)
    (hend : ∀ t, t.inReset = r → P Y t →
      ∃ o, R o ∧ rowStep stage writes body Y (inWorld (σ.after (Y * p)) t) = .ended o) :
    ∃ o, R o ∧ rowLoop stage writes body (List.range n) (inWorld σ s) = .ended o := by
  obtain ⟨t, ht, hPt, hskip⟩ := rowLoop_skip Y n 0 hY (fun y _ hy => hrow y (by omega)) hs hP hl hpend
  rw [Nat.zero_add] at hPt hskip
  obtain ⟨o, ho, hstep⟩ := hend t ht hPt
  refine ⟨o, ho, ?_⟩
  obtain ⟨m, hm⟩ : ∃ m, n - Y = m + 1 := ⟨n - Y - 1, by omega⟩
  rw [List.range_eq_range', hskip, hm, List.range'_succ]
  cases m with
  | zero => rw [List.range'_zero, rowLoop_singleton, hstep]
  | succ m => rw [List.range'_succ, rowLoop_cons_cons, hstep, andThen_ended, andThen_ended]

/-- A stage without rows takes one point. -/
theorem rowLoop_nil_goes {r : Bool} {stage : Stage} {writes : Nat → State → List PortWrite} {body : Nat → State → Flow}
    {σ : World} {s : State} (hs : s.inReset = r) (hb : busy s = true) (hl : σ.Lets r 1) :
    rowLoop stage writes body [] (inWorld σ s) = .on (inWorld (σ.after 1) s) := land_inWorld [] hb (by rwa [hs])

/-- A row that changes the block's own state, where the world does not touch the change. -/
theorem takes_pureRow {r : Bool} {stage : Stage} {row : Nat → State → State} {y : Nat} {P Q R : State → Prop}
    (hat : ∀ s, P s → Q (atRow stage y s)) (hQ : ∀ s, Q s → busy s = true) (hR : ∀ s, R s → busy s = true)
    (hbody : Takes r 0 (fun s => .on (row y s)) Q R) :
    Takes r 2 (rowStep stage noWrites (fun y s => .on (row y s)) y) P R :=
  (((takes_land (fun _ => []) hQ).comp (f := atRow stage y) (fun _ _ => rfl) (fun _ => rfl) hat).andThen hbody).andThen
    (takes_land (fun _ => []) hR)

end Sys2Proof.Machine
end

section
/-! PROOFS. Writing a destination: writes of `u` bytes each, packed from a base address on in raster order, `count` to a
row (48_upsampler.md R371, 40_commands.md R172). What memory holds after the first `N` of them is said once, for UPSCALE
and for the DUMPs, and kept through the rows of a writing stage in every world. -/

namespace Sys2Proof.Machine

/-! ### Memory after the first writes -/

/-- `m'` is `m` after the first `N` writes of a destination. -/
structure Stored (base count u : Nat) (b : Nat → Nat → Nat → Byte) (N : Nat) (m m' : Memory) : Prop where
  wf : m'.wf = true
  inside : ∀ i k, i < N → k < u → m'.read (base + u * i + k) = b (i % count) (i / count) k
  outside : ∀ a, a < base ∨ base + u * N ≤ a → m'.read a = m.read a

/-- Write number X of row y. -/
def destWrite (base count u : Nat) (b : Nat → Nat → Nat → Byte) (y X : Nat) : PortWrite :=
  ⟨base + u * (y * count + X), (List.range u).map (b X y)⟩

@[simp] theorem length_destWrite (base count u : Nat) (b : Nat → Nat → Nat → Byte) (y X : Nat) :
    (destWrite base count u b y X).bytes.length = u := by simp [destWrite]

/-- The `n` writes of row y from number `j` on. -/
def destRow (base count u : Nat) (b : Nat → Nat → Nat → Byte) (y j n : Nat) : List PortWrite :=
  (List.range' j n).map (destWrite base count u b y)

theorem destRow_succ (base count u : Nat) (b : Nat → Nat → Nat → Byte) (y j n : Nat) :
    destRow base count u b y j (n + 1) = destWrite base count u b y j :: destRow base count u b y (j + 1) n := by
  simp [destRow, List.range'_succ]

section
variable {base count u : Nat} {b : Nat → Nat → Nat → Byte} {N : Nat} {m m' : Memory}

theorem stored_zero (h : m.wf = true) : Stored base count u b 0 m m where
  wf := h
  inside _ _ hi := absurd hi (Nat.not_lt_zero _)
  outside _ _ := rfl

theorem row_mod {y X : Nat} (hX : X < count) : (y * count + X) % count = X := by
  rw [Nat.mul_comm, Nat.mul_add_mod, Nat.mod_eq_of_lt hX]

theorem row_div {y X : Nat} (hX : X < count) : (y * count + X) / count = y := by
  rw [Nat.mul_comm, Nat.mul_add_div (by omega), Nat.div_eq_of_lt hX, Nat.add_zero]

/-- Byte k of write X of row y, where it is among the first `N`. -/
theorem Stored.read (h : Stored base count u b N m m') {X y k : Nat} (hX : X < count) (hN : y * count + X < N)
    (hk : k < u) : m'.read (base + u * (y * count + X) + k) = b X y k := by
  have hread := h.inside _ _ hN hk
  rwa [row_mod hX, row_div hX] at hread

/-- One write more. -/
theorem Stored.write {y X : Nat} (h : Stored base count u b (y * count + X) m m') (hX : X < count)
    (hle : base + u * (y * count + X + 1) ≤ 4294967296) :
    Stored base count u b (y * count + X + 1) m
      (memBytes (destWrite base count u b y X).addr (destWrite base count u b y X).bytes m') := by
  have hlen := length_destWrite base count u b y X
  have hfit : (destWrite base count u b y X).addr + (destWrite base count u b y X).bytes.length ≤ 4294967296 := by
    rw [hlen]
    show base + u * (y * count + X) + u ≤ _
    rwa [Nat.mul_add u, Nat.mul_one, ← Nat.add_assoc] at hle
  have hread := fun a =>
    memBytes_read (destWrite base count u b y X).addr a (destWrite base count u b y X).bytes m' h.wf hfit
  simp only [hlen] at hread
  refine ⟨memBytes_wf _ _ _ h.wf hfit, fun i k hi hk => ?_, fun a ha => ?_⟩
  · rw [hread]
    rcases Nat.lt_or_ge i (y * count + X) with hlt | hge
    · have hstep : u * (i + 1) ≤ u * (y * count + X) := Nat.mul_le_mul_left u hlt
      rw [Nat.mul_add, Nat.mul_one] at hstep
      rw [if_neg (by simp only [destWrite]; omega)]
      exact h.inside i k hlt hk
    · obtain rfl : i = y * count + X := by omega
      rw [if_pos (by simp only [destWrite]; omega), row_mod hX, row_div hX]
      have hsub : base + u * (y * count + X) + k - (destWrite base count u b y X).addr = k := by
        simp only [destWrite]
        omega
      rw [hsub]
      simp [destWrite, hk]
  · rw [Nat.mul_add, Nat.mul_one] at ha
    rw [hread, if_neg (by simp only [destWrite]; omega)]
    exact h.outside a (by omega)

end

/-! ### A running stage that writes -/

/-- The running word `w` has performed the first `N` writes of its destination, and `s` was the state before them. -/
def Storing (s : State) (w : Word) (base count u : Nat) (b : Nat → Nat → Nat → Byte) (N : Nat) (t : State) : Prop :=
  ∃ m record stage row, Stored base count u b N s.mem m ∧ t = writeState s m record (.run w stage row)

/-- `writes` are the rows of the destination, as a stage that starts from `s` sees them. -/
def WritesDest (s : State) (base count u : Nat) (b : Nat → Nat → Nat → Byte)
    (writes : Nat → State → List PortWrite) : Prop :=
  ∀ y σ m record p, writes y (inWorld σ (writeState s m record p)) = destRow base count u b y 0 count

section
variable {s : State} {w : Word} {base count u : Nat} {b : Nat → Nat → Nat → Byte} {N : Nat}

theorem storing_zero {stage : Stage} {row : Nat} (hp : s.phase = .run w stage row) (hm : s.mem.wf = true)
    (ht : s.race.touched = []) : Storing s w base count u b 0 s := by
  refine ⟨s.mem, s.race.wrote, stage, row, stored_zero hm, ?_⟩
  rw [writeState, ← race_untouched s ht, ← hp]

theorem Storing.busy {t : State} (h : Storing s w base count u b N t) : busy t = true := by
  obtain ⟨m, record, stage, row, -, rfl⟩ := h
  rfl

theorem Storing.inReset {t : State} (h : Storing s w base count u b N t) : t.inReset = s.inReset := by
  obtain ⟨m, record, stage, row, -, rfl⟩ := h
  rfl

theorem Storing.atRow {t : State} (h : Storing s w base count u b N t) (stage : Stage) (row : Nat) :
    Storing s w base count u b N (atRow stage row t) := by
  obtain ⟨m, record, st, r, hm, rfl⟩ := h
  exact ⟨m, record, stage, row, hm, rfl⟩

/-- A write of the destination that goes through, in every world. -/
theorem performWrites_storing {t : State} {y X : Nat} (ws : List PortWrite) (σ : World) (hX : X < count)
    (hle : base + u * (y * count + X + 1) ≤ 4294967296)
    (hgo : refuses s (base + u * (y * count + X)) u .write = false)
    (h : Storing s w base count u b (y * count + X) t) :
    ∃ t', Storing s w base count u b (y * count + X + 1) t'
      ∧ performWrites (destWrite base count u b y X :: ws) (inWorld σ t)
        = (land ws (inWorld σ t')).andThen (performWrites ws) := by
  obtain ⟨m, record, stage, row, hm, rfl⟩ := h
  obtain ⟨record', hw⟩ := writeBytes_quiet (destWrite base count u b y X).addr (destWrite base count u b y X).bytes
    (inWorld σ (writeState s m record (.run w stage row))) rfl
  refine ⟨_, ⟨_, record', stage, row, hm.write hX hle, rfl⟩, ?_⟩
  rw [Nat.mul_add, Nat.mul_one, ← Nat.add_assoc] at hle
  rw [performWrites, length_destWrite, if_neg (by exact Nat.not_lt.2 hle), if_neg, hw]
  · rfl
  · rw [Bool.not_eq_true]
    exact hgo

/-- The first `k` writes of a row, from number `j` on: a landing point after each. -/
theorem performWrites_skip {r : Bool} {y : Nat} (k n j : Nat) (hk : k ≤ n) (hn : j + n ≤ count)
    (hle : base + u * (y * count + count) ≤ 4294967296)
    (hgo : ∀ X, j ≤ X → X < j + k → refuses s (base + u * (y * count + X)) u .write = false) {t : State} {σ : World}
    (ht : t.inReset = r) (hP : Storing s w base count u b (y * count + j) t) (hl : σ.Lets r k) :
    ∃ t', t'.inReset = r ∧ Storing s w base count u b (y * count + j + k) t'
      ∧ performWrites (destRow base count u b y j n) (inWorld σ t)
        = performWrites (destRow base count u b y (j + k) (n - k)) (inWorld (σ.after k) t') := by
  induction k generalizing n j t σ with
  | zero => exact ⟨t, ht, hP, by rw [World.after_zero]; rfl⟩
  | succ k ih =>
    obtain ⟨n, rfl⟩ : ∃ m, n = m + 1 := ⟨n - 1, by omega⟩
    have hle' : base + u * (y * count + j + 1) ≤ 4294967296 :=
      (Nat.add_le_add_left (Nat.mul_le_mul_left u (by omega)) base).trans hle
    obtain ⟨t', hP', hstep⟩ := performWrites_storing (destRow base count u b y (j + 1) n) σ (by omega) hle'
      (hgo j (Nat.le_refl j) (by omega)) hP
    have ht' : t'.inReset = r := hP'.inReset.trans (hP.inReset.symm.trans ht)
    rw [Nat.add_comm k 1] at hl
    obtain ⟨v, hv, hQ, hrest⟩ := ih n (j + 1) (by omega) (by omega) (fun X h1 h2 => hgo X (by omega) (by omega)) ht'
      hP' hl.after
    refine ⟨v, hv, by rwa [show y * count + j + (k + 1) = y * count + (j + 1) + k by omega], ?_⟩
    rw [destRow_succ, hstep, land_inWorld _ hP'.busy (by rw [ht']; exact hl.mono (Nat.le_add_right _ _)), andThen_on,
      hrest, World.after_after hl, Nat.add_comm 1 k, show j + 1 + k = j + (k + 1) by omega, Nat.add_sub_add_right]

/-- The writes of a row, from number `j` on. -/
theorem takes_performWrites {r : Bool} {y : Nat} (n j : Nat) (hn : j + n ≤ count)
    (hle : base + u * (y * count + count) ≤ 4294967296)
    (hgo : ∀ X, j ≤ X → X < j + n → refuses s (base + u * (y * count + X)) u .write = false) :
    Takes r n (performWrites (destRow base count u b y j n)) (Storing s w base count u b (y * count + j))
      (Storing s w base count u b (y * count + j + n)) := by
  intro t σ ht hP hl
  obtain ⟨v, hv, hQ, hrun⟩ := performWrites_skip n n j (Nat.le_refl n) hn hle hgo ht hP hl
  rw [Nat.sub_self] at hrun
  exact ⟨v, hv, hQ, hrun⟩

/-- A whole row of a writing stage. -/
theorem takes_writingRow {r : Bool} {stage : Stage} {writes : Nat → State → List PortWrite} {y : Nat}
    (hw : WritesDest s base count u b writes) (hle : base + u * ((y + 1) * count) ≤ 4294967296)
    (hgo : ∀ X, X < count → refuses s (base + u * (y * count + X)) u .write = false) :
    Takes r (count + 2) (rowStep stage writes (fun y s => performWrites (writes y s) s) y)
      (Storing s w base count u b (y * count)) (Storing s w base count u b ((y + 1) * count)) := by
  have hrow : (y + 1) * count = y * count + count := Nat.succ_mul y count
  rw [hrow] at hle ⊢
  have hperform : Takes r count (fun t => performWrites (writes y t) t) (Storing s w base count u b (y * count))
      (Storing s w base count u b (y * count + count)) := by
    intro t σ ht hP hl
    obtain ⟨v, hv, hQ, hstep⟩ := takes_performWrites (r := r) count 0 (by omega) hle (fun X _ h2 => hgo X (by omega)) t
      σ ht hP hl
    refine ⟨v, hv, hQ, ?_⟩
    obtain ⟨m, record, st, row, hm, rfl⟩ := hP
    dsimp only
    rw [hw, hstep]
  have hstart : Takes r 1 (fun t => land (writes y (atRow stage y t)) (atRow stage y t))
      (Storing s w base count u b (y * count)) (Storing s w base count u b (y * count)) :=
    (takes_land (writes y) fun _ h => h.busy).comp (f := atRow stage y) (fun _ _ => rfl) (fun _ => rfl)
      fun _ h => h.atRow stage y
  rw [show count + 2 = 1 + count + 1 by omega]
  exact (hstart.andThen hperform).andThen (takes_land (fun _ => []) fun _ h => h.busy)

/-- The bound of the whole destination bounds a row of it. -/
theorem row_le {height y : Nat} (hy : y < height) (h : base + u * (height * count) ≤ 4294967296) :
    base + u * ((y + 1) * count) ≤ 4294967296 :=
  (Nat.add_le_add_left (Nat.mul_le_mul_left u (Nat.mul_le_mul_right count hy)) base).trans h

/-- The place of a write in the destination. -/
theorem place_lt {height y X : Nat} (hy : y < height) (hX : X < count) : y * count + X < height * count :=
  calc y * count + X < y * count + count := by omega
    _ = (y + 1) * count := (Nat.succ_mul y count).symm
    _ ≤ height * count := Nat.mul_le_mul_right count hy

/-- A writing stage where nothing lands and every write goes through. -/
theorem writingRows_dest {stage : Stage} {writes : Nat → State → List PortWrite} {height : Nat} (hq : Quiet s)
    (hs : Storing s w base count u b 0 s) (hw : WritesDest s base count u b writes)
    (hgo : WritesGo s base (height * count) u) :
    ∃ t, Storing s w base count u b (height * count) t ∧ writingRows stage height writes s = .on t := by
  obtain ⟨hle, hgo⟩ := hgo
  have hworld {t : State} (h : Storing s w base count u b (height * count) t) :
      inWorld (World.still s.pendCmd false) t = t := by
    obtain ⟨m, record, st, row, -, rfl⟩ := h
    exact inWorld_eq_self hq.1 rfl hq.2
  have hrows : ∃ t, Storing s w base count u b (height * count) t
      ∧ rowLoop stage writes (fun y s => performWrites (writes y s) s) (List.range height)
          (inWorld (World.still s.pendCmd false) s) = .on (inWorld (World.still s.pendCmd false) t) := by
    cases height with
    | zero =>
      refine ⟨s, by simpa using hs, ?_⟩
      rw [List.range_zero, rowLoop_nil_goes rfl hs.busy (World.lets_still _ _ _ _), World.after_still]
    | succ n =>
      obtain ⟨t, -, ht, hrun⟩ := rowLoop_goes (P := fun y => Storing s w base count u b (y * count)) (stage := stage)
        (n := n) (fun y hy => takes_writingRow (r := s.inReset) hw (row_le hy hle) fun X hX => hgo _ (place_lt hy hX))
        rfl (by simpa using hs) (World.lets_still s.pendCmd false _ _) (.inr (by rw [World.after_still]; rfl))
      exact ⟨t, ht, by rw [hrun, World.after_still]⟩
  obtain ⟨t, ht, hrun⟩ := hrows
  rw [hworld ht, inWorld_eq_self hq.1 rfl hq.2] at hrun
  exact ⟨t, ht, hrun⟩

end

end Sys2Proof.Machine
end

section
/-! PROOFS. UPSCALE, the DUMPs and the tail of RUN_FRAME when nothing lands and every write goes through
(48_upsampler.md, 40_commands.md sections 3 and 4): each writes its destination and completes. -/

namespace Sys2Proof.Machine

/-! ### The destinations -/

/-- The four bytes of a pixel, one by one (R371, R372). -/
theorem upscaleBytes_eq (s : State) (X Y : Nat) :
    upscaleBytes s X Y =
      (List.range 4).map (outByte s.bufs.cbuf (workW s) (workH s) s.dims.scale.toNat X Y) := by
  unfold upscaleBytes outByte
  by_cases h : X / latScale s < workW s ∧ Y / latScale s < workH s
  · rw [if_pos h]
    simp [List.range_succ, show X / s.dims.scale.toNat < workW s ∧ Y / s.dims.scale.toNat < workH s from h]
    exact ⟨rfl, rfl, rfl⟩
  · rw [if_neg h]
    simp [List.range_succ, show ¬(X / s.dims.scale.toNat < workW s ∧ Y / s.dims.scale.toNat < workH s) from h]

theorem upscaleWrites_dest (s : State) :
    WritesDest s s.snap.dstBase.toNat (latW s) 4 (outByte s.bufs.cbuf (workW s) (workH s) s.dims.scale.toNat)
      upscaleWrites := by
  intro y σ m record p
  rw [destRow, ← List.range_eq_range']
  refine List.map_congr_left fun X _ => ?_
  rw [upscaleBytes_eq]
  rfl

theorem flatMap_range_map {α : Type} (n e : Nat) (g : Nat → Nat → α) :
    ((List.range n).flatMap fun x => (List.range e).map (g x))
      = (List.range (n * e)).map fun i => g (i / e) (i % e) := by
  induction n with
  | zero => simp
  | succ n ih =>
    rw [List.range_succ, List.flatMap_append, ih, Nat.add_mul, Nat.one_mul, List.range_add, List.map_append,
      List.flatMap_singleton, List.map_map]
    refine congrArg _ (List.map_congr_left fun k hk => ?_)
    have hk' := List.mem_range.1 hk
    simp only [Function.comp_apply]
    rw [row_div hk', row_mod hk']

/-- A DUMP's writes, byte by byte (R172). -/
theorem dumpWrites_dest {s : State} {e : Nat} {elem : State → Nat → Nat → List Byte}
    (helem : ∀ σ m record p, elem (inWorld σ (writeState s m record p)) = elem s) :
    WritesDest s s.snap.dstBase.toNat (e * workW s) 1 (fun X y _ => (elem s (X / e) y).getD (X % e) 0)
      (dumpWrites e elem) := by
  intro y σ m record p
  rw [dumpWrites, helem, destRow, ← List.range_eq_range']
  show ((List.range (workW s)).flatMap fun x => (List.range e).map fun k =>
    (⟨s.snap.dstBase.toNat + e * (y * workW s + x) + k, [(elem s x y).getD k 0]⟩ : PortWrite)) = _
  rw [flatMap_range_map, Nat.mul_comm (workW s)]
  refine List.map_congr_left fun X _ => ?_
  have haddr : e * (y * workW s + X / e) + X % e = y * (e * workW s) + X := by
    rw [Nat.mul_add, Nat.add_assoc, Nat.div_add_mod, Nat.mul_left_comm]
  simp [destWrite, Nat.add_assoc, haddr]

/-! ### A command that writes a destination -/

theorem completed_writeState_accept {s : State} (hq : Quiet s) (w : Word) (m : Memory) (record : List Written)
    (p : Phase) : completed (writeState (accept w s) m record p) = { afterCommand s with mem := m } := by
  rw [completed_quiet (s := writeState (accept w s) m record p) hq.2, afterCommand, hq.2]
  rfl

theorem runCommand_dest {w : Word} {checks : State → List Check} {regions : State → List Region} {stage : Stage}
    {height : State → Nat} {writes : Nat → State → List PortWrite} {s : State} {base count u : Nat}
    {b : Nat → Nat → Nat → Byte} (hq : Quiet s) (hm : s.mem.wf = true)
    (hc : firstFail (checks (accept w s)) = none) (hr : (regions (accept w s)).any (meetsDevice (accept w s)) = false)
    (hw : WritesDest (accept w s) base count u b writes) (hgo : WritesGo s base (height (accept w s) * count) u) :
    ∃ m, runCommand w checks regions (fun s => thenComplete (writingRows stage (height s) writes s)) s
        = .next { afterCommand s with mem := m }
      ∧ Stored base count u b (height (accept w s) * count) s.mem m := by
  obtain ⟨t, ⟨m, record, st, row, hstored, rfl⟩, hrun⟩ :=
    writingRows_dest (stage := stage) (quiet_accept w hq) (storing_zero rfl hm rfl) hw hgo
  refine ⟨m, ?_, hstored⟩
  rw [runCommand_completes hq.1 hc hr (congrArg thenComplete hrun) (by exact hq.1), completed_writeState_accept hq]

theorem firstFail_dest {w : Word} {s : State} {v : Bool} {size : Nat} (hv : v = true)
    (hsize : s.cfg.dstBase.toNat + size ≤ 4294967296) :
    firstFail [checkSeq v, checkRange (accept w s).snap.dstBase size] = none := by
  rw [← reported_eq_none_iff, reported_checkSeq, hv, if_neg (by simp), reported_checkRange, reported_nil]
  exact if_neg (Nat.not_lt.2 hsize)

theorem exec_upscale_dest {s : State} (hq : Quiet s) (hm : s.mem.wf = true) (hv : s.valid.cbuf = true)
    (hd : DestinationTakes s (dimLo s.dims.src * dimHi s.dims.src) 4) :
    ∃ m, exec .upscale s = .next { afterCommand s with mem := m }
      ∧ Stored s.cfg.dstBase.toNat (dimLo s.dims.src) 4
        (outByte s.bufs.cbuf (workW s) (workH s) s.dims.scale.toNat) (dimHi s.dims.src * dimLo s.dims.src) s.mem m := by
  obtain ⟨hgo, hdev⟩ := hd
  rw [← Nat.mul_assoc] at hdev
  have hsize := hgo.1
  rw [← Nat.mul_assoc] at hsize
  rw [Nat.mul_comm (dimLo s.dims.src)] at hgo
  exact runCommand_dest (w := 0x08) (stage := .upscale) (height := latH) hq hm (firstFail_dest hv hsize)
    ((Bool.or_false _).trans hdev) (upscaleWrites_dest (accept 0x08 s)) hgo

/-- Settles O17: the destination of UPSCALE is written row after row. -/
theorem upscaleWritesPixels : Obligations.UpscaleWritesPixels := by
  intro s hq hm hv hd
  obtain ⟨m, hrun, hstored⟩ := exec_upscale_dest hq hm hv hd
  refine ⟨m, hrun, fun X Y k hX hY hk => hstored.read hX (place_lt hY hX) hk, fun a ha => hstored.outside a ?_⟩
  rwa [Nat.mul_comm (dimHi _)]

theorem exec_dump_dest {i : Instr} {w : Word} {valid : Valid → Bool} {e : Nat} {elem : State → Nat → Nat → List Byte}
    {s : State} (hexec : exec i s = runDump w valid e elem s) (hq : Quiet s) (hm : s.mem.wf = true)
    (hv : valid s.valid = true)
    (helem : ∀ σ m record p, elem (inWorld σ (writeState (accept w s) m record p)) = elem (accept w s))
    (hd : DestinationTakes s (e * workW s * workH s) 1) :
    ∃ m, exec i s = .next { afterCommand s with mem := m }
      ∧ Stored s.cfg.dstBase.toNat (e * workW s) 1 (fun X y _ => (elem (accept w s) (X / e) y).getD (X % e) 0)
        (workH s * (e * workW s)) s.mem m := by
  obtain ⟨hgo, hdev⟩ := hd
  rw [Nat.one_mul] at hdev
  have hsize := hgo.1
  rw [Nat.one_mul] at hsize
  rw [Nat.mul_comm (e * workW s)] at hgo
  rw [hexec]
  exact runCommand_dest (w := w) (stage := .dump) (height := workH) hq hm (firstFail_dest hv hsize)
    ((Bool.or_false _).trans hdev) (dumpWrites_dest helem) hgo

/-- The places of an element's bytes in the destination of a DUMP. -/
theorem elem_place {e k : Nat} (W x y : Nat) (hk : k < e) :
    e * (y * W + x) + k = y * (e * W) + (x * e + k) ∧ (x * e + k) / e = x ∧ (x * e + k) % e = k := by
  refine ⟨?_, row_div hk, row_mod hk⟩
  rw [Nat.mul_add, Nat.mul_left_comm, Nat.mul_comm e x, Nat.add_assoc]

theorem elem_lt {e k W x : Nat} (hx : x < W) (hk : k < e) : x * e + k < e * W := by
  rw [Nat.mul_comm e]
  exact place_lt hx hk

/-- A DUMP from what memory holds after it. -/
theorem dumpWrites_of_stored {i : Instr} {e : Nat} {b : Nat → Nat → Nat → Byte} {s : State}
    (h : DestinationTakes s (e * workW s * workH s) 1 → ∃ m, exec i s = .next { afterCommand s with mem := m }
      ∧ Stored s.cfg.dstBase.toNat (e * workW s) 1 (fun X y _ => b (X / e) y (X % e))
          (workH s * (e * workW s)) s.mem m) :
    DumpWrites i e b s := by
  intro hd
  obtain ⟨m, hrun, hstored⟩ := h hd
  refine ⟨m, hrun, fun x y k hx hy hk => ?_, fun a ha => hstored.outside a ?_⟩
  · obtain ⟨hplace, hdiv, hmod⟩ := elem_place (workW s) x y hk
    have hlt := elem_lt hx hk
    have hread := hstored.read (k := 0) hlt (place_lt hy hlt) Nat.one_pos
    rw [hdiv, hmod, Nat.one_mul, Nat.add_zero] at hread
    rwa [Nat.add_assoc, hplace]
  · rwa [Nat.one_mul, Nat.mul_comm (workH s)]

theorem dumpWrites_byte {i : Instr} {w : Word} {valid : Valid → Bool} {buf : Bufs → List (List Byte)} {s : State}
    (hexec : exec i s = runDump w valid 1 (fun s x y => [px (buf s.bufs) x y]) s) (hq : Quiet s) (hm : s.mem.wf = true)
    (hv : valid s.valid = true) : DumpWrites i 1 (fun x y _ => px (buf s.bufs) x y) s := by
  refine dumpWrites_of_stored fun hd => ?_
  obtain ⟨m, hrun, hstored⟩ := exec_dump_dest hexec hq hm hv (fun _ _ _ _ => rfl) hd
  refine ⟨m, hrun, ?_⟩
  simpa [Nat.mod_one] using hstored

/-- Settles O18: the destination of each DUMP is written row after row. -/
theorem dumpWritesBuffer : Obligations.DumpWritesBuffer := fun _ hq hm =>
  ⟨dumpWrites_byte (buf := fun b => b.ibuf) (valid := fun v => v.ibuf) rfl hq hm,
    dumpWrites_byte (buf := fun b => b.tbuf) (valid := fun v => v.tbuf) rfl hq hm,
    dumpWrites_byte (buf := fun b => b.mbuf) (valid := fun v => v.mbuf) rfl hq hm,
    dumpWrites_byte (buf := fun b => b.dbuf) (valid := fun v => v.dbuf) rfl hq hm,
    fun hv => dumpWrites_of_stored fun hd =>
      exec_dump_dest (w := 0x49) (valid := fun v => v.cbuf) (elem := fun s x y => rgbBytes (cpx s.bufs.cbuf x y)) rfl hq
        hm hv (fun _ _ _ _ => rfl) hd⟩

/-! ### The tail of RUN_FRAME -/

/-- The state after the DEPTH stage of a RUN_FRAME that went on from `s`, its phase apart. -/
def afterDepth (p : Phase) (s : State) : State :=
  { s with
    bufs := { s.bufs with dbuf := tailDbuf s }
    valid := { s.valid with dbuf := true, cbuf := false }
    phase := p }

/-- The state before its UPSCALE stage. -/
def afterPalette (p : Phase) (s : State) : State :=
  { s with
    bufs := { s.bufs with dbuf := tailDbuf s, cbuf := tailCbuf s }
    valid := { s.valid with dbuf := true, cbuf := true }
    phase := p }

theorem stages_to_palette {s : State} {w : Word} {st : Stage} {r : Nat} (hq : Quiet s) (hp : s.phase = .run w st r) :
    ∃ st' r', ((((stageDepth s).andThen betweenStages).andThen stagePalette).andThen betweenStages)
      = .on (afterPalette (.run w st' r') s) := by
  obtain ⟨st1, r1, h1⟩ := stageDepth_quiet s w st r hq hp
  obtain ⟨st2, r2, h2⟩ := stagePalette_quiet (afterDepth (.run w st1 r1) s) w st1 r1 hq rfl
  have hdepth : stageDepth s = .on (afterDepth (.run w st1 r1) s) := h1
  have hpalette : stagePalette (afterDepth (.run w st1 r1) s) = .on (afterPalette (.run w st2 r2) s) := h2
  refine ⟨st2, r2, ?_⟩
  rw [hdepth, andThen_on, betweenStages_quiet _ (by exact hq), andThen_on, hpalette, andThen_on,
    betweenStages_quiet _ (by exact hq)]

theorem execRunFrame_of_midFrame {s : State} {w : Word} {row : Nat} (hp : s.phase = .run w .depth row) :
    execRunFrame s = (frameTail s).out := by
  unfold execRunFrame
  rw [hp]

theorem exec_frameTail_dest {s : State} {w : Word} {row : Nat} (hq : Quiet s) (hp : s.phase = .run w .depth row)
    (hm : s.mem.wf = true) (ht : s.race.touched = [])
    (hgo : WritesGo s s.snap.dstBase.toNat (dimLo s.dims.src * dimHi s.dims.src) 4) :
    ∃ m, exec .runFrame s = .next
        { s with
          status := { s.status with done := true }
          valid := { s.valid with dbuf := true, cbuf := true }
          bufs := { s.bufs with dbuf := tailDbuf s, cbuf := tailCbuf s }
          phase := .idle
          diff := ⟨[], none⟩
          race := ⟨[], []⟩
          mem := m }
      ∧ Stored s.snap.dstBase.toNat (dimLo s.dims.src) 4
        (outByte (tailCbuf s) (workW s) (workH s) s.dims.scale.toNat) (dimHi s.dims.src * dimLo s.dims.src) s.mem
        m := by
  obtain ⟨st, r, hstages⟩ := stages_to_palette hq hp
  rw [Nat.mul_comm (dimLo s.dims.src)] at hgo
  obtain ⟨t, ⟨m, record, st', row', hstored, rfl⟩, hrun⟩ :=
    writingRows_dest (s := afterPalette (.run w st r) s) (stage := .upscale) hq (storing_zero rfl hm ht)
      (upscaleWrites_dest _) hgo
  have hstage : stageUpscale (afterPalette (.run w st r) s) =
      .on (writeState (afterPalette (.run w st r) s) m record (.run w st' row')) := hrun
  refine ⟨m, ?_, hstored⟩
  rw [exec, execRunFrame_of_midFrame hp, frameTail, hstages, andThen_on, hstage, thenComplete_quiet _ (by exact hq.1),
    completed_quiet (by exact hq.2)]
  simp [afterPalette, writeState, hq.2]

/-- Settles O20: the three stages follow one another on the snapshot of the frame. -/
theorem frameTail_runs_to_completion : Obligations.FrameTail := by
  intro s w row hq hp hm ht hgo
  obtain ⟨m, hrun, hstored⟩ := exec_frameTail_dest hq hp hm ht hgo
  refine ⟨m, hrun, fun X Y k hX hY hk => hstored.read hX (place_lt hY hX) hk, fun a ha => hstored.outside a ?_⟩
  rwa [Nat.mul_comm (dimHi _)]

end Sys2Proof.Machine
end

section
/-! PROOFS. The dither variants that treat each element by itself (45_threshold_dither.md): every one is a pointwise
variant with the threshold its statement writes out, or draws once per element in raster order. -/

namespace Sys2Proof.Machine

/-! ### Pointwise variants -/

/-- A pointwise variant where nothing lands, its element function put as a statement writes it. -/
theorem exec_pointwise {i : Instr} {f : State → Nat → Nat → Byte → Byte} {g : Nat → Nat → Byte} {s : State} {w : Word}
    {r : Nat} (hexec : exec i s = runPointwise f s) (hq : Quiet s) (hp : s.phase = .run w .dither r)
    (hf : ∀ m c p x y v, f (ditherState s m c p) x y v = f s x y v)
    (hg : ∀ x y, f s x y (px s.bufs.tbuf x y) = g x y) :
    exec i s = .next (ditherResult w (rows (workW s) (workH s) g) s.rngState s) := by
  rw [hexec, runPointwise_quiet f s w r hq hp hf]
  simp only [hg]

/-- Settles O33: the passthrough's element function is the element. -/
theorem passthroughCopies : Obligations.PassthroughCopies := fun s c w row hq hp =>
  exec_passthrough_quiet c s w row hq hp

/-- Settles O29: the three thresholds of R305. -/
theorem lineStyles : Obligations.LineStyles := fun _ _ _ hq hp =>
  ⟨exec_pointwise (f := fun s _ y i => maskNat i (lineThr (patScale s) y)) rfl hq hp (fun _ _ _ _ _ _ => rfl)
      fun _ _ => rfl,
    exec_pointwise (f := fun s x _ i => maskNat i (lineThr (patScale s) x)) rfl hq hp (fun _ _ _ _ _ _ => rfl)
      fun _ _ => rfl,
    exec_pointwise (f := fun s x y i => maskNat i (lineThr (patScale s) (x + y))) rfl hq hp (fun _ _ _ _ _ _ => rfl)
      fun _ _ => rfl⟩

/-- Settles O30: the three patterns of R321. -/
theorem patternStyles : Obligations.PatternStyles := fun s _ _ hq hp =>
  ⟨exec_pointwise (f := fun _ x y i => maskNat i (patThr (decide ((x + y) % 2 = 0)))) rfl hq hp
      (fun _ _ _ _ _ _ => rfl) fun _ _ => rfl,
    exec_pointwise
      (f := fun s x y i => maskNat i (patThr (decide (x % patScale s = 0) || decide (y % patScale s = 0)))) rfl hq hp
      (fun _ _ _ _ _ _ => rfl) fun x y => by
        rw [← Bool.decide_or]
        rfl,
    exec_pointwise (f := fun s x y i => maskNat i (patThr (decide (x * y % (2 * patScale s) < patScale s)))) rfl hq hp
      (fun _ _ _ _ _ _ => rfl) fun _ _ => rfl⟩

theorem bayerThr_eq (msize : Byte) (x y : Nat) :
    bayerThr msize x y =
      if msize = 2 then bayerScaled 1 x y else if msize = 4 then bayerScaled 2 x y
      else if msize = 8 then bayerScaled 3 x y else if msize = 16 then bayerScaled 4 x y else 128 := by
  have hne (n : Nat) (hn : n < 256) : msize.toNat = n ↔ msize = BitVec.ofNat 8 n := by
    rw [← BitVec.toNat_inj, BitVec.toNat_ofNat, Nat.mod_eq_of_lt hn]
  simp [bayerThr, hne]

/-- KNOLL4's entry through lists of lists (R304). -/
theorem knollThr_eq (m : Knoll) (x y : Nat) :
    knollThr m x y = (((m.toList.map fun r => r.toList.map fun v => v.val).getD (y % 4) []).getD (x % 4) 0) * 16 := by
  have hx : x % 4 < 4 := Nat.mod_lt _ (by decide)
  have hy : y % 4 < 4 := Nat.mod_lt _ (by decide)
  rw [knollThr, Vector.get_eq_getElem, Vector.get_eq_getElem]
  simp [hx, hy]

theorem knollDefault_eq :
    (State.reset.plat.knoll4.toList.map fun r => r.toList.map fun v => v.val)
      = [[12, 5, 6, 13], [4, 0, 1, 7], [11, 3, 2, 8], [15, 10, 9, 14]] := rfl

/-- Settles O28: the two thresholds, as R302 and R304 read them, and the default matrix. -/
theorem orderedStyles : Obligations.OrderedStyles :=
  ⟨fun s _ _ hq hp =>
    ⟨exec_pointwise (f := fun s x y i => maskNat i (bayerThr s.snap.msize x y)) rfl hq hp (fun _ _ _ _ _ _ => rfl)
        fun x y => by
          rw [bayerThr_eq]
          rfl,
      exec_pointwise (f := fun s x y i => maskNat i (knollThr s.plat.knoll4 x y)) rfl hq hp (fun _ _ _ _ _ _ => rfl)
        fun x y => by
          rw [knollThr_eq]
          rfl⟩,
    knollDefault_eq⟩

/-- A waveform where nothing lands. -/
theorem exec_wave {i : Instr} {shape : Shape} {axis : Axis} {g : Nat → Nat → Byte} {s : State} {w : Word} {r : Nat}
    (hexec : exec i s = runWave shape axis s) (hq : Quiet s) (hp : s.phase = .run w .dither r)
    (hg : ∀ x y, maskF (px s.bufs.tbuf x y)
      (waveThr Config.sin64 shape (patScale s) (waveDist axis (workW s) (workH s) x y)) = g x y) :
    exec i s = .next (ditherResult w (rows (workW s) (workH s) g) s.rngState s) :=
  exec_pointwise
    (f := fun s x y i => maskF i (waveThr Config.sin64 shape (patScale s) (waveDist axis (workW s) (workH s) x y)))
    hexec hq hp (fun _ _ _ _ _ _ => rfl) hg

/-- Settles O32: the hash of R309 and the thresholds of R314. -/
theorem sineStyles : Obligations.SineStyles := fun _ _ _ hq hp =>
  ⟨exec_pointwise (f := fun _ x y i => maskF i (hashThr Config.sin64 x y)) rfl hq hp (fun _ _ _ _ _ _ => rfl)
      fun _ _ => rfl,
    exec_wave (shape := .sine) (axis := .x) rfl hq hp fun _ _ => rfl,
    exec_wave (shape := .sine) (axis := .y) rfl hq hp fun _ _ => rfl,
    exec_wave (shape := .sine) (axis := .radial) rfl hq hp fun _ _ => rfl,
    exec_wave (shape := .square) (axis := .x) rfl hq hp fun _ _ => rfl,
    exec_wave (shape := .square) (axis := .y) rfl hq hp fun _ _ => rfl,
    exec_wave (shape := .square) (axis := .radial) rfl hq hp fun _ _ => rfl⟩

/-! ### Variants that draw -/

theorem drawn_add (a b : Nat) (g : Word) : drawn (a + b) g = drawn b (drawn a g) := by
  rw [Nat.add_comm]
  exact Function.iterate_add_apply xorshift b a g

/-- A row of draws: element x takes the draw after x others (R257). -/
theorem drawRow_eq (f : F64 → Byte → Byte) (elems : List Byte) (g : Word) :
    (drawRow f elems g).1 = (List.range elems.length).map fun x => f (randOf (drawn (x + 1) g)) (elems.getD x 0) := by
  induction elems generalizing g with
  | nil => rfl
  | cons i elems ih =>
    rw [drawRow, ih, List.length_cons, List.range_succ_eq_map, List.map_cons, List.map_map]
    rfl

theorem drawRow_rowOf (f : F64 → Byte → Byte) (h : Nat → Byte) (width : Nat) (g : Word) :
    (drawRow f (rowOf h width) g).1 = rowOf (fun x => f (randOf (drawn (x + 1) g)) (h x)) width := by
  rw [drawRow_eq, length_rowOf]
  refine List.map_congr_left fun x hx => ?_
  rw [rowOf, List.getD_eq_getElem _ _ (by simpa using List.mem_range.1 hx)]
  simp

/-- The rows of a variant that draws, from the random state `c.1` on. -/
theorem variantRows_random (f : F64 → Byte → Byte) (h : Nat → Nat → Byte) (width n : Nat) (c : Word × Diffuser) :
    variantRows (fun y c => ((drawRow f (rowOf (fun x => h x y) width) c.1).1,
        ((drawRow f (rowOf (fun x => h x y) width) c.1).2, c.2))) n c
      = (rows width n (fun x y => f (randOf (drawn (y * width + x + 1) c.1)) (h x y)),
          (drawn (n * width) c.1, c.2)) := by
  induction n with
  | zero => simp [variantRows, rows, drawn]
  | succ n ih =>
    rw [variantRows_succ, ih, rows_succ, drawRow_rowOf, drawRow_state, length_rowOf, ← drawn_add, Nat.succ_mul]
    simp only [← drawn_add, Nat.add_assoc]

/-- A variant that draws where nothing lands, its comparison put as a statement writes it. -/
theorem exec_random {i : Instr} {f : F64 → Byte → Byte} (on : F64 → Byte → Bool) {s : State} {w : Word} {r : Nat}
    (hexec : exec i s = runRandom f s) (hq : Quiet s) (hp : s.phase = .run w .dither r)
    (hf : ∀ v b, f v b = if on v b = true then 255 else 0) :
    exec i s = .next (ditherResult w
      (rows (workW s) (workH s) fun x y =>
        if on (randOf (drawn (y * workW s + x + 1) s.rngState)) (px s.bufs.tbuf x y) = true then 255 else 0)
      (drawn (workW s * workH s) s.rngState) s) := by
  rw [hexec, runRandom, runStyle_quiet _ _
    (fun y c => ((drawRow f (rowOf (fun x => px s.bufs.tbuf x y) (workW s)) c.1).1,
      ((drawRow f (rowOf (fun x => px s.bufs.tbuf x y) (workW s)) c.1).2, c.2))) (s.rngState, s.diff) s w r hq hp rfl
    (fun _ _ _ _ => rfl), variantRows_random, Nat.mul_comm (workW s)]
  simp only [hf]

/-- PAT.RANDOM's threshold is below the element or not (R324). -/
theorem maskNat_patThr (v : F64) (b : Byte) :
    maskNat b (patThr (fLt v fHalf))
      = if decide (b.toNat > if fLt v fHalf = true then 127 else 200) = true then 255 else 0 := by
  rw [maskNat, patThr]
  simp only [decide_eq_true_eq, gt_iff_lt]

/-- Settles O31: the four comparisons, on the draws in raster order. -/
theorem randomStyles : Obligations.RandomStyles := fun _ _ _ hq hp =>
  ⟨exec_random (fun r i => fLt (fMul r f255) (fOfNat i.toNat)) (f := fun r i => maskF i (fMul r f255)) rfl hq hp
      fun _ _ => rfl,
    exec_random (fun r i => fLt r (fDiv (fOfNat i.toNat) f255)) (f := stipple) rfl hq hp fun _ _ => rfl,
    exec_random (fun r i => fLt r (fDiv (fOfNat i.toNat) f255)) (f := stipple) rfl hq hp fun _ _ => rfl,
    exec_random (fun r i => decide (i.toNat > if fLt r fHalf = true then 127 else 200))
      (f := fun r i => maskNat i (patThr (fLt r fHalf))) rfl hq hp maskNat_patThr⟩

end Sys2Proof.Machine
end

section
/-! PROOFS. The error diffusers (44_error_diffusion.md): the machine's lists against the spec's loop over coordinates.
The accumulator as a list of rows stands for a function of coordinates inside the buffer, a row of MBUF for the places
the loop has set, and the machine's rows one after another are the loop in raster order. -/

namespace Sys2Proof.Machine

/-! ### The accumulator -/

/-- The list `acc` has the buffer's dimensions and holds what the function `F` gives. -/
structure AccIs (width height : Nat) (acc : List (List F64)) (F : Nat → Nat → F64) : Prop where
  height_eq : acc.length = height
  width_eq : ∀ r ∈ acc, r.length = width
  get : ∀ x y, x < width → y < height → accGet acc x y = F x y

theorem accGet_eq (acc : List (List F64)) (x y : Nat) : accGet acc x y = ((acc[y]?.getD [])[x]?).getD f0 := by
  simp [accGet]

theorem accGet_accAdd {width height : Nat} {acc : List (List F64)} {F : Nat → Nat → F64}
    (h : AccIs width height acc F) {x y : Nat} (v : F64) (hx : x < width) (hy : y < height) (x' y' : Nat) :
    accGet (accAdd acc x y v) x' y' = if x' = x ∧ y' = y then fAdd (accGet acc x y) v else accGet acc x' y' := by
  have hy0 : y < acc.length := by rwa [h.height_eq]
  have hx0 : x < acc[y].length := by rwa [h.width_eq _ (List.getElem_mem hy0)]
  rw [accGet_eq, accGet_eq, accGet_eq, accAdd, List.getElem?_modify]
  by_cases hyy : y = y'
  · subst hyy
    rw [List.getElem?_eq_getElem hy0]
    by_cases hxx : x = x'
    · subst hxx
      simp [hx0]
    · simp [hxx, Ne.symm hxx]
  · simp [hyy, Ne.symm hyy]

theorem AccIs.accAdd {width height : Nat} {acc : List (List F64)} {F : Nat → Nat → F64}
    (h : AccIs width height acc F) {x y : Nat} (v : F64) (hx : x < width) (hy : y < height) :
    AccIs width height (accAdd acc x y v) (atPlace F x y (fAdd (F x y) v)) where
  height_eq := by rw [Machine.accAdd, List.length_modify, h.height_eq]
  width_eq r hr := by
    obtain ⟨i, hi, rfl⟩ := List.getElem_of_mem hr
    rw [Machine.accAdd, List.length_modify] at hi
    have hlen := h.width_eq _ (List.getElem_mem hi)
    simp only [Machine.accAdd, List.getElem_modify]
    split
    · rw [List.length_modify, hlen]
    · exact hlen
  get x' y' hx' hy' := by
    rw [accGet_accAdd h v hx hy, h.get x y hx hy, h.get x' y' hx' hy', atPlace]

/-- A share as a triple. -/
def Share.triple (sh : Share) : Int × Int × F64 := (sh.dx, (sh.dy : Int), sh.amount)

/-- One share: the machine drops it where the spec does (R270). -/
theorem AccIs.addShare {width height : Nat} {acc : List (List F64)} {F : Nat → Nat → F64}
    (h : AccIs width height acc F) (x y : Nat) (sh : Share) :
    AccIs width height (addShare width height x y acc sh) (spread width height x y F sh.triple) := by
  have hy : ((y : Int) + (sh.dy : Int)).toNat = y + sh.dy := by omega
  by_cases hin : 0 ≤ (x : Int) + sh.dx ∧ (x : Int) + sh.dx < width ∧ y + sh.dy < height
  · have hin' : 0 ≤ (x : Int) + sh.dx ∧ (x : Int) + sh.dx < width ∧ 0 ≤ (y : Int) + (sh.dy : Int)
        ∧ (y : Int) + (sh.dy : Int) < height := by omega
    rw [Machine.addShare, if_pos hin]
    unfold spread Share.triple
    simp only [hin', hy, and_self, if_true]
    exact h.accAdd _ (by omega) hin.2.2
  · have hin' : ¬(0 ≤ (x : Int) + sh.dx ∧ (x : Int) + sh.dx < width ∧ 0 ≤ (y : Int) + (sh.dy : Int)
        ∧ (y : Int) + (sh.dy : Int) < height) := by omega
    rw [Machine.addShare, if_neg hin]
    unfold spread Share.triple
    rw [if_neg hin']
    exact h

theorem AccIs.addShares {width height : Nat} (x y : Nat) (shs : List Share) {acc : List (List F64)}
    {F : Nat → Nat → F64} (h : AccIs width height acc F) :
    AccIs width height (shs.foldl (Machine.addShare width height x y) acc)
      ((shs.map Share.triple).foldl (spread width height x y) F) := by
  induction shs generalizing acc F with
  | nil => exact h
  | cons sh shs ih => exact ih (h.addShare x y sh)

/-! ### Rows in raster order -/

theorem atPlace_of_ne {α : Type} (f : Nat → Nat → α) {x y x' y' : Nat} (v : α) (h : ¬(x' = x ∧ y' = y)) :
    atPlace f x y v x' y' = f x' y' := if_neg h

theorem atPlace_self {α : Type} (f : Nat → Nat → α) (x y : Nat) (v : α) : atPlace f x y v x y = v := if_pos ⟨rfl, rfl⟩

section
variable (shares : Byte → F64 → List Share) (tbuf : List (List Byte)) (width height : Nat)

/-- The shares as triples. -/
abbrev tripleShares : Byte → F64 → List (Int × Int × F64) := fun i e => (shares i e).map Share.triple

theorem onOff_eq_quantize : onOff = quantize := rfl

theorem diffuseAt_self (sh : Byte → F64 → List (Int × Int × F64)) (t : Nat → Nat → Byte)
    (st : (Nat → Nat → Byte) × (Nat → Nat → F64)) (x y : Nat) :
    (diffuseAt sh t width height st (x, y)).1 x y = quantize (st.2 x y) := atPlace_self _ _ _ _

theorem diffuseAt_of_ne (sh : Byte → F64 → List (Int × Int × F64)) (t : Nat → Nat → Byte)
    (st : (Nat → Nat → Byte) × (Nat → Nat → F64)) {x y x' y' : Nat} (h : ¬(x' = x ∧ y' = y)) :
    (diffuseAt sh t width height st (x, y)).1 x' y' = st.1 x' y' := atPlace_of_ne _ _ h

/-- The spec's loop over the first `n` elements of row y. -/
def rowLoopTo (y n : Nat) (st : (Nat → Nat → Byte) × (Nat → Nat → F64)) : (Nat → Nat → Byte) × (Nat → Nat → F64) :=
  ((List.range n).map fun x => (x, y)).foldl (diffuseAt (tripleShares shares) (px tbuf) width height) st

theorem rowLoopTo_succ (y n : Nat) (st : (Nat → Nat → Byte) × (Nat → Nat → F64)) :
    rowLoopTo shares tbuf width height y (n + 1) st =
      diffuseAt (tripleShares shares) (px tbuf) width height (rowLoopTo shares tbuf width height y n st) (n, y) := by
  simp [rowLoopTo, List.range_succ]

/-- The machine's row up to element `n` and the loop's: the same elements, the same accumulator, and the loop has set no
place but those. -/
theorem diffuseRow_simulates (y : Nat) (hy : y < height) {acc : List (List F64)}
    {st : (Nat → Nat → Byte) × (Nat → Nat → F64)} (h : AccIs width height acc st.2) (n : Nat) (hn : n ≤ width) :
    let out := (List.range n).foldl (diffusePixel shares tbuf width height y) ([], acc)
    let st' := rowLoopTo shares tbuf width height y n st
    out.1 = rowOf (fun x => st'.1 x y) n ∧ AccIs width height out.2 st'.2
      ∧ ∀ x' y', y' ≠ y ∨ n ≤ x' → st'.1 x' y' = st.1 x' y' := by
  induction n with
  | zero => exact ⟨rfl, h, fun _ _ _ => rfl⟩
  | succ n ih =>
    obtain ⟨hrow, hacc, hkeep⟩ := ih (by omega)
    have hold := hacc.get n y (by omega) hy
    dsimp only
    rw [rowLoopTo_succ, List.range_succ, List.foldl_append, List.foldl_cons, List.foldl_nil, diffusePixel]
    refine ⟨?_, ?_, fun x' y' hne => ?_⟩
    · rw [hold, hrow, rowOf, rowOf, List.range_succ, List.map_append, List.map_singleton, diffuseAt_self]
      refine congrArg (fun l => l ++ _) (List.map_congr_left fun x hx => ?_)
      rw [diffuseAt_of_ne _ _ _ _ _ (by have := List.mem_range.1 hx; omega)]
    · rw [hold]
      exact hacc.addShares n y _
    · rw [diffuseAt_of_ne _ _ _ _ _ (by omega)]
      exact hkeep x' y' (by omega)

/-- The spec's loop over the first `n` rows. -/
def rasterTo (n : Nat) : (Nat → Nat → Byte) × (Nat → Nat → F64) :=
  (raster width n).foldl (diffuseAt (tripleShares shares) (px tbuf) width height)
    (fun _ _ => 0, fun x y => fOfNat (px tbuf x y).toNat)

theorem rasterTo_succ (n : Nat) :
    rasterTo shares tbuf width height (n + 1) =
      rowLoopTo shares tbuf width height n width (rasterTo shares tbuf width height n) := by
  simp [rasterTo, rowLoopTo, raster, List.range_succ]

/-- A row of a diffuser: the accumulator from row to row, RNG_STATE as it was. -/
def diffuserRow (y : Nat) (c : Word × Diffuser) : List Byte × (Word × Diffuser) :=
  let out := (List.range width).foldl (diffusePixel shares tbuf width height y) ([], c.2.acc)
  (out.1, (c.1, { c.2 with acc := out.2 }))

theorem variantRows_diffuser (n : Nat) (hn : n ≤ height) {c : Word × Diffuser}
    (h : AccIs width height c.2.acc fun x y => fOfNat (px tbuf x y).toNat) :
    let out := variantRows (diffuserRow shares tbuf width height) n c
    out.1 = rows width n (rasterTo shares tbuf width height n).1 ∧ out.2.1 = c.1
      ∧ AccIs width height out.2.2.acc (rasterTo shares tbuf width height n).2 := by
  induction n with
  | zero => exact ⟨rfl, rfl, h⟩
  | succ n ih =>
    obtain ⟨hrows, hrng, hacc⟩ := ih (by omega)
    obtain ⟨hrow, hacc', hkeep⟩ := diffuseRow_simulates shares tbuf width height n (by omega) hacc width (Nat.le_refl _)
    dsimp only
    rw [variantRows_succ, rasterTo_succ]
    refine ⟨?_, hrng, hacc'⟩
    rw [hrows, rows_succ]
    refine congrArg₂ _ (rows_congr fun x y _ hy => (hkeep x y (.inl (by omega))).symm) ?_
    exact congrArg (fun r => [r]) hrow

end

theorem accIs_initAcc (s : State) :
    AccIs (workW s) (workH s) (initAcc s).diff.acc fun x y => fOfNat (px s.bufs.tbuf x y).toNat where
  height_eq := by simp [initAcc]
  width_eq r hr := by
    obtain ⟨y, -, rfl⟩ := List.mem_map.1 hr
    exact length_rowOf _ _
  get x y hx hy := getD_rows (fun x y => fOfNat (px s.bufs.tbuf x y).toNat) f0 hx hy

/-- A diffuser where nothing lands. -/
theorem exec_diffuser {i : Instr} {sharesOf : State → Byte → F64 → List Share} {s : State} {w : Word} {r : Nat}
    (shares : Byte → F64 → List (Int × Int × F64))
    (hexec : exec i s = runStyle initAcc (fun y s => diffuseRow (sharesOf s) y s) s) (hq : Quiet s)
    (hp : s.phase = .run w .dither r) (hsame : ∀ m c p, sharesOf (ditherState s m c p) = sharesOf s)
    (htriples : tripleShares (sharesOf s) = shares) :
    exec i s = .next
      (ditherResult w (rows (workW s) (workH s) (diffused shares (px s.bufs.tbuf) (workW s) (workH s))) s.rngState
        s) := by
  subst htriples
  obtain ⟨hrows, hrng, -⟩ := variantRows_diffuser (sharesOf s) s.bufs.tbuf (workW s) (workH s) (workH s) (Nat.le_refl _)
    (c := (s.rngState, (initAcc s).diff)) (accIs_initAcc s)
  rw [hexec, runStyle_quiet initAcc _ (diffuserRow (sharesOf s) s.bufs.tbuf (workW s) (workH s))
    (s.rngState, (initAcc s).diff) s w r hq hp rfl, hrows, hrng]
  · rfl
  · intro y m c p
    rw [hsame]
    rfl

/-! ### The kernel styles and the variable coefficients -/

theorem exec_kernel {i : Instr} {div : Nat} {taps : List Tap} {s : State} {w : Word} {r : Nat}
    (hexec : exec i s = runKernel ⟨div, taps⟩ s) (hq : Quiet s) (hp : s.phase = .run w .dither r) :
    exec i s = .next
      (ditherResult w
        (rows (workW s) (workH s)
          (diffused (tapShares div (tapTriples taps) (fDiv (fOfNat s.snap.bleed.toNat) f256)) (px s.bufs.tbuf) (workW s)
            (workH s)))
        s.rngState s) := by
  refine exec_diffuser (sharesOf := fun s => kernelShares ⟨div, taps⟩ (bleedFactor s)) _ hexec hq hp
    (fun _ _ _ => rfl) ?_
  funext v e
  simp [tripleShares, kernelShares, tapShares, tapTriples, Share.triple, bleedFactor]

/-- Settles O25: each of the eight styles is the loop with its taps, and the default table is that of R272. -/
theorem kernelStyles : Obligations.KernelStyles := by
  refine ⟨fun s w row hq hp k hk => ?_, rfl⟩
  simp only [List.mem_cons, List.not_mem_nil, or_false] at hk
  rcases hk with rfl | rfl | rfl | rfl | rfl | rfl | rfl | rfl
  · exact exec_kernel (i := .edFloydSteinberg) (taps := tapsFloydSteinberg) rfl hq hp
  · exact exec_kernel (i := .edAtkinson) rfl hq hp
  · exact exec_kernel (i := .edJjn) rfl hq hp
  · exact exec_kernel (i := .edStucki) rfl hq hp
  · exact exec_kernel (i := .edBurkes) rfl hq hp
  · exact exec_kernel (i := .edSierra) rfl hq hp
  · exact exec_kernel (i := .edSierra2) rfl hq hp
  · exact exec_kernel (i := .edSierraLite) rfl hq hp

theorem vcCoeffs_eq (i : Byte) :
    vcCoeffs i = if i.toNat < 64 then (13, 0, 5) else if i.toNat < 128 then (6, 13, 0)
      else if i.toNat < 192 then (0, 7, 13) else (3, 5, 13) := by
  simp only [vcCoeffs, ← Nat.lt_succ_iff]

theorem tripleShares_vc (i : Byte) (e : F64) :
    tripleShares vcShares i e =
      (let c := vcCoeffs i
      let q := fDiv e (fOfNat (c.1 + c.2.1 + c.2.2))
      [(1, 0, fMul q (fOfNat c.1)), (-1, 1, fMul q (fOfNat c.2.1)), (0, 1, fMul q (fOfNat c.2.2))]) := by
  unfold tripleShares vcShares
  obtain ⟨c1, c2, c3⟩ := vcCoeffs i
  rfl

/-- Settles O26: the loop with the shares of R283. -/
theorem variableCoefficientStyle : Obligations.VariableCoefficientStyle := by
  intro s w row hq hp shares
  have hshares : tripleShares vcShares = shares := by
    funext v e
    rw [tripleShares_vc, vcCoeffs_eq]
  exact exec_diffuser (i := .vcOstromoukhov) (sharesOf := fun _ => vcShares) shares rfl hq hp (fun _ _ _ => rfl) hshares

/-! ### The serpentine diffuser -/

theorem serpAt_self (damp : F64) (tbuf : Nat → Nat → Byte) (st : (Nat → Nat → Byte) × F64) (q : Nat × Nat) :
    (serpAt damp tbuf st q).1 q.1 q.2 = quantize (fAdd (fOfNat (tbuf q.1 q.2).toNat) st.2) := atPlace_self _ _ _ _

theorem serpAt_of_ne (damp : F64) (tbuf : Nat → Nat → Byte) (st : (Nat → Nat → Byte) × F64) {p q : Nat × Nat}
    (h : p ≠ q) : (serpAt damp tbuf st q).1 p.1 p.2 = st.1 p.1 p.2 :=
  atPlace_of_ne _ _ fun he => h (Prod.ext he.1 he.2)

/-- The scan of an element and the loop's step have the same error. -/
theorem serpScan_cons (damp : F64) (tbuf : Nat → Nat → Byte) (st : (Nat → Nat → Byte) × F64) (q : Nat × Nat)
    (elems : List Byte) :
    serpScan damp (tbuf q.1 q.2 :: elems) st.2 =
      (quantize (fAdd (fOfNat (tbuf q.1 q.2).toNat) st.2) :: (serpScan damp elems (serpAt damp tbuf st q).2).1,
        (serpScan damp elems (serpAt damp tbuf st q).2).2) := by
  rw [serpScan, serpAt, onOff_eq_quantize]

/-- The loop over places that all differ: the machine's scan of their elements gives the same values at the places in
order, the same error, and no other place is set. -/
theorem serpScan_simulates (damp : F64) (tbuf : Nat → Nat → Byte) (ps : List (Nat × Nat)) (hps : ps.Nodup)
    (st : (Nat → Nat → Byte) × F64) :
    let out := serpScan damp (ps.map fun p => tbuf p.1 p.2) st.2
    let st' := ps.foldl (serpAt damp tbuf) st
    out.1 = ps.map (fun p => st'.1 p.1 p.2) ∧ out.2 = st'.2 ∧ ∀ p, p ∉ ps → st'.1 p.1 p.2 = st.1 p.1 p.2 := by
  induction ps generalizing st with
  | nil => exact ⟨rfl, rfl, fun _ _ => rfl⟩
  | cons q ps ih =>
    obtain ⟨hq, hps⟩ := List.nodup_cons.1 hps
    obtain ⟨hout, herr, hkeep⟩ := ih hps (serpAt damp tbuf st q)
    dsimp only
    rw [List.map_cons, serpScan_cons, List.foldl_cons, List.map_cons, hkeep q hq, serpAt_self, hout, herr]
    refine ⟨rfl, rfl, fun p hp => ?_⟩
    rw [List.mem_cons, not_or] at hp
    rw [hkeep p hp.2, serpAt_of_ne damp tbuf st hp.1]

/-- The places of row y in the order of the scan (R284). -/
def serpPlaces (width y : Nat) : List (Nat × Nat) :=
  let row := (List.range width).map fun x => (x, y)
  if y % 2 = 0 then row else row.reverse

theorem nodup_serpPlaces (width y : Nat) : (serpPlaces width y).Nodup := by
  have hrow : ((List.range width).map fun x => (x, y)).Nodup :=
    List.Nodup.map (fun a b h => congrArg Prod.fst h) List.nodup_range
  unfold serpPlaces
  split
  · exact hrow
  · exact List.nodup_reverse.2 hrow

theorem mem_serpPlaces {width y : Nat} {p : Nat × Nat} : p ∈ serpPlaces width y → p.2 = y := by
  intro hp
  have hrow : p ∈ (List.range width).map fun x => (x, y) := by
    unfold serpPlaces at hp
    split at hp
    · exact hp
    · exact List.mem_reverse.1 hp
  obtain ⟨x, -, rfl⟩ := List.mem_map.1 hrow
  rfl

/-- The spec's loop over the first `n` rows of the scan. -/
def serpTo (damp : F64) (tbuf : List (List Byte)) (width n : Nat) : (Nat → Nat → Byte) × F64 :=
  (serpentine width n).foldl (serpAt damp (px tbuf)) (fun _ _ => 0, f0)

theorem serpTo_succ (damp : F64) (tbuf : List (List Byte)) (width n : Nat) :
    serpTo damp tbuf width (n + 1) = (serpPlaces width n).foldl (serpAt damp (px tbuf)) (serpTo damp tbuf width n) := by
  simp [serpTo, serpPlaces, serpentine, List.range_succ]

/-- A row of the serpentine diffuser, SERP_E from row to row. -/
def serpentineRow (damp : F64) (tbuf : List (List Byte)) (width y : Nat) (c : Word × Diffuser) :
    List Byte × (Word × Diffuser) :=
  let elems := rowOf (fun x => px tbuf x y) width
  let out := serpScan damp (if y % 2 = 0 then elems else elems.reverse) (c.2.serpE.getD f0)
  (if y % 2 = 0 then out.1 else out.1.reverse, (c.1, { c.2 with serpE := some out.2 }))

theorem serpentineRow_eq (damp : F64) (tbuf : List (List Byte)) (width y : Nat) (c : Word × Diffuser) :
    serpentineRow damp tbuf width y c =
      (let out := serpScan damp ((serpPlaces width y).map fun p => px tbuf p.1 p.2) (c.2.serpE.getD f0)
      (if y % 2 = 0 then out.1 else out.1.reverse, (c.1, { c.2 with serpE := some out.2 }))) := by
  by_cases hy : y % 2 = 0 <;> simp [serpentineRow, serpPlaces, hy, rowOf, Function.comp_def]

theorem variantRows_serpentine (damp : F64) (tbuf : List (List Byte)) (width n : Nat) {c : Word × Diffuser}
    (h : c.2.serpE.getD f0 = f0) :
    let out := variantRows (serpentineRow damp tbuf width) n c
    out.1 = rows width n (serpTo damp tbuf width n).1 ∧ out.2.1 = c.1
      ∧ out.2.2.serpE.getD f0 = (serpTo damp tbuf width n).2 := by
  induction n with
  | zero => exact ⟨rfl, rfl, h⟩
  | succ n ih =>
    obtain ⟨hrows, hrng, herr⟩ := ih
    obtain ⟨hout, herr', hkeep⟩ := serpScan_simulates damp (px tbuf) (serpPlaces width n) (nodup_serpPlaces width n)
      (serpTo damp tbuf width n)
    dsimp only
    rw [variantRows_succ, serpTo_succ, serpentineRow_eq]
    dsimp only
    rw [herr, hout, herr']
    refine ⟨?_, hrng, rfl⟩
    rw [hrows, rows_succ]
    refine congrArg₂ _ (rows_congr fun x y _ hy => (hkeep (x, y) fun hm => ?_).symm) (congrArg (fun r => [r]) ?_)
    · have := mem_serpPlaces hm
      dsimp only at this
      omega
    · by_cases hn : n % 2 = 0 <;> simp [serpPlaces, hn, rowOf]

/-- Settles O27: the scan of R284, row after row. -/
theorem serpentineStyle : Obligations.SerpentineStyle := by
  intro s w row hq hp
  obtain ⟨hrows, hrng, -⟩ := variantRows_serpentine s.plat.serpDamp s.bufs.tbuf (workW s) (workH s)
    (c := (s.rngState, { s.diff with serpE := some f0 })) rfl
  show runStyle (fun s => { s with diff := { s.diff with serpE := some f0 } }) serpRow s = _
  rw [runStyle_quiet _ serpRow (serpentineRow s.plat.serpDamp s.bufs.tbuf (workW s))
    (s.rngState, { s.diff with serpE := some f0 }) s w row hq hp rfl (fun _ _ _ _ => rfl), hrows, hrng]
  rfl

end Sys2Proof.Machine
end

section
/-! PROOFS. What a variant computes depends on the snapshot, TBUF, the dimensions, the platform and the random state
alone (43_dither_dispatch.md). -/

namespace Sys2Proof.Machine

/-! ### What a variant depends on -/

/-- Two states agree on what a variant reads besides the random state. -/
structure Agrees (s t : State) : Prop where
  snap : t.snap = s.snap
  tbuf : t.bufs.tbuf = s.bufs.tbuf
  dims : t.dims = s.dims
  plat : t.plat = s.plat

theorem agrees_ditherState (s : State) (m : List (List Byte)) (c : Word × Diffuser) (p : Phase) :
    Agrees s (ditherState s m c p) := ⟨rfl, rfl, rfl, rfl⟩

section
variable {s t : State}

theorem Agrees.workW (h : Agrees s t) : workW t = workW s := by rw [Machine.workW, h.dims, Machine.workW]

theorem Agrees.workH (h : Agrees s t) : workH t = workH s := by rw [Machine.workH, h.dims, Machine.workH]

theorem Agrees.patScale (h : Agrees s t) : patScale t = patScale s := by rw [Machine.patScale, h.snap, Machine.patScale]

/-- The instruction leaves the same MBUF and the same random state on two states at the dispatch of a variant. -/
def SameDither (i : Instr) (s t : State) : Prop :=
  ∀ (w w' : Word) (r r' : Nat), Quiet s → Quiet t → s.phase = .run w .dither r → t.phase = .run w' .dither r' →
    ∃ m g, exec i s = .next (ditherResult w m g s) ∧ exec i t = .next (ditherResult w' m g t)

theorem sameDither_pointwise {i : Instr} (f : State → Nat → Nat → Byte → Byte)
    (hexec : ∀ s, exec i s = runPointwise f s) (hf : ∀ s t, Agrees s t → f t = f s) (h : Agrees s t)
    (hg : t.rngState = s.rngState) : SameDither i s t := by
  intro w w' r r' hq hq' hp hp'
  refine ⟨_, _, exec_pointwise (hexec s) hq hp (fun m c p x y v => ?_) fun _ _ => rfl, ?_⟩
  · rw [hf _ _ (agrees_ditherState s m c p)]
  · rw [← h.workW, ← h.workH, ← hf s t h, ← h.tbuf, ← hg]
    refine exec_pointwise (hexec t) hq' hp' (fun m c p x y v => ?_) fun _ _ => rfl
    rw [hf _ _ (agrees_ditherState t m c p)]

theorem sameDither_random {i : Instr} (on : F64 → Byte → Bool) {f : F64 → Byte → Byte}
    (hexec : ∀ s, exec i s = runRandom f s) (hf : ∀ v b, f v b = if on v b = true then 255 else 0) (h : Agrees s t)
    (hg : t.rngState = s.rngState) : SameDither i s t := by
  intro w w' r r' hq hq' hp hp'
  refine ⟨_, _, exec_random on (hexec s) hq hp hf, ?_⟩
  rw [← h.workW, ← h.workH, ← h.tbuf, ← hg]
  exact exec_random on (hexec t) hq' hp' hf

theorem sameDither_diffuser {i : Instr} (sharesOf : State → Byte → F64 → List Share)
    (hexec : ∀ u, Agrees s u → exec i u = runStyle initAcc (fun y s => diffuseRow (sharesOf s) y s) u)
    (hf : ∀ s t, Agrees s t → sharesOf t = sharesOf s) (h : Agrees s t) (hg : t.rngState = s.rngState) :
    SameDither i s t := by
  intro w w' r r' hq hq' hp hp'
  refine ⟨_, _, exec_diffuser _ (hexec s ⟨rfl, rfl, rfl, rfl⟩) hq hp
    (fun m c p => hf _ _ (agrees_ditherState s m c p)) rfl, ?_⟩
  rw [← h.workW, ← h.workH, ← hf s t h, ← h.tbuf, ← hg]
  exact exec_diffuser _ (hexec t h) hq' hp' (fun m c p => hf _ _ (agrees_ditherState t m c p)) rfl

theorem sameDither_kernel {i : Instr} (div : Nat) (taps : State → List Tap)
    (hexec : ∀ s, exec i s = runKernel ⟨div, taps s⟩ s) (ht : ∀ u, Agrees s u → taps u = taps s) (h : Agrees s t)
    (hg : t.rngState = s.rngState) : SameDither i s t :=
  sameDither_diffuser (fun u => kernelShares ⟨div, taps s⟩ (bleedFactor u))
    (fun u hu => by rw [hexec, ht u hu]; rfl) (fun s t h => by rw [bleedFactor, h.snap, bleedFactor]) h hg

theorem sameDither_wave {i : Instr} (shape : Shape) (axis : Axis) (hexec : ∀ s, exec i s = runWave shape axis s)
    (h : Agrees s t) (hg : t.rngState = s.rngState) : SameDither i s t :=
  sameDither_pointwise
    (fun s x y i => maskF i (waveThr Config.sin64 shape (patScale s) (waveDist axis (workW s) (workH s) x y))) hexec
    (fun _ _ h => by rw [h.patScale, h.workW, h.workH]) h hg

/-- Every variant, on states that agree. -/
theorem sameDither_of_agrees {i : Instr} (hi : isCommand i = false) (h : Agrees s t) (hg : t.rngState = s.rngState) :
    SameDither i s t := by
  cases i with
  | nop | runFrame | buildLut | sample | tonemap | dither | depth | palette | upscale | dumpIbuf | dumpTbuf | dumpMbuf
  | dumpDbuf | dumpCbuf | illegalCmd => cases hi
  | edFloydSteinberg => exact sameDither_kernel 16 (fun _ => tapsFloydSteinberg) (fun _ => rfl) (fun _ _ => rfl) h hg
  | edAtkinson =>
    exact sameDither_kernel 8 (fun s => s.plat.kernels.atkinson) (fun _ => rfl) (fun _ hu => by rw [hu.plat]) h hg
  | edJjn => exact sameDither_kernel 48 (fun s => s.plat.kernels.jjn) (fun _ => rfl) (fun _ hu => by rw [hu.plat]) h hg
  | edStucki =>
    exact sameDither_kernel 42 (fun s => s.plat.kernels.stucki) (fun _ => rfl) (fun _ hu => by rw [hu.plat]) h hg
  | edBurkes =>
    exact sameDither_kernel 32 (fun s => s.plat.kernels.burkes) (fun _ => rfl) (fun _ hu => by rw [hu.plat]) h hg
  | edSierra =>
    exact sameDither_kernel 32 (fun s => s.plat.kernels.sierra) (fun _ => rfl) (fun _ hu => by rw [hu.plat]) h hg
  | edSierra2 =>
    exact sameDither_kernel 16 (fun s => s.plat.kernels.sierra2) (fun _ => rfl) (fun _ hu => by rw [hu.plat]) h hg
  | edSierraLite =>
    exact sameDither_kernel 4 (fun s => s.plat.kernels.sierraLite) (fun _ => rfl) (fun _ hu => by rw [hu.plat]) h hg
  | vcOstromoukhov => exact sameDither_diffuser (fun _ => vcShares) (fun _ _ => rfl) (fun _ _ _ => rfl) h hg
  | sfcRiemersma =>
    intro w w' r r' hq hq' hp hp'
    refine ⟨_, _, serpentineStyle s w r hq hp, ?_⟩
    rw [← h.workW, ← h.workH, ← h.plat, ← h.tbuf, ← hg]
    exact serpentineStyle t w' r' hq' hp'
  | noiseWhite =>
    exact sameDither_random (fun r i => fLt (fMul r f255) (fOfNat i.toNat)) (fun _ => rfl) (fun _ _ => rfl) h hg
  | noiseStipple | noiseVoronoi =>
    exact sameDither_random (fun r i => fLt r (fDiv (fOfNat i.toNat) f255)) (fun _ => rfl) (fun _ _ => rfl) h hg
  | patRandom =>
    exact sameDither_random (fun r i => decide (i.toNat > if fLt r fHalf = true then 127 else 200)) (fun _ => rfl)
      maskNat_patThr h hg
  | ordBayer =>
    exact sameDither_pointwise (fun s x y i => maskNat i (bayerThr s.snap.msize x y)) (fun _ => rfl)
      (fun _ _ h => by rw [h.snap]) h hg
  | ordKnoll =>
    exact sameDither_pointwise (fun s x y i => maskNat i (knollThr s.plat.knoll4 x y)) (fun _ => rfl)
      (fun _ _ h => by rw [h.plat]) h hg
  | linesH =>
    exact sameDither_pointwise (fun s _ y i => maskNat i (lineThr (patScale s) y)) (fun _ => rfl)
      (fun _ _ h => by rw [h.patScale]) h hg
  | linesV =>
    exact sameDither_pointwise (fun s x _ i => maskNat i (lineThr (patScale s) x)) (fun _ => rfl)
      (fun _ _ h => by rw [h.patScale]) h hg
  | linesD =>
    exact sameDither_pointwise (fun s x y i => maskNat i (lineThr (patScale s) (x + y))) (fun _ => rfl)
      (fun _ _ h => by rw [h.patScale]) h hg
  | noiseBlue =>
    exact sameDither_pointwise (fun _ x y i => maskF i (hashThr Config.sin64 x y)) (fun _ => rfl) (fun _ _ _ => rfl) h
      hg
  | waveSinX => exact sameDither_wave .sine .x (fun _ => rfl) h hg
  | waveSinY => exact sameDither_wave .sine .y (fun _ => rfl) h hg
  | waveSinR => exact sameDither_wave .sine .radial (fun _ => rfl) h hg
  | waveSqrX => exact sameDither_wave .square .x (fun _ => rfl) h hg
  | waveSqrY => exact sameDither_wave .square .y (fun _ => rfl) h hg
  | waveSqrR => exact sameDither_wave .square .radial (fun _ => rfl) h hg
  | patChecker =>
    exact sameDither_pointwise (fun _ x y i => maskNat i (patThr (decide ((x + y) % 2 = 0)))) (fun _ => rfl)
      (fun _ _ _ => rfl) h hg
  | patGrid =>
    exact sameDither_pointwise
      (fun s x y i => maskNat i (patThr (decide (x % patScale s = 0) || decide (y % patScale s = 0)))) (fun _ => rfl)
      (fun _ _ h => by rw [h.patScale]) h hg
  | patGradient =>
    exact sameDither_pointwise (fun s x y i => maskNat i (patThr (decide (x * y % (2 * patScale s) < patScale s))))
      (fun _ => rfl) (fun _ _ h => by rw [h.patScale]) h hg
  | passthrough c =>
    intro w w' r r' hq hq' hp hp'
    refine ⟨_, _, exec_passthrough_quiet c s w r hq hp, ?_⟩
    rw [← h.workW, ← h.workH, ← h.tbuf, ← hg]
    exact exec_passthrough_quiet c t w' r' hq' hp'

end

end Sys2Proof.Machine
end

section
/-! PROOFS. RUN_FRAME and its variant, run to the end when nothing lands; its six stages run one after another; and the
two against each other (40_commands.md section 3, 00_scope.md section 1). -/

namespace Sys2Proof.Machine

/-! ### The frame -/

theorem runAll_cons {i : Instr} {s t : State} (is : List Instr) (h : exec i s = .next t) :
    runAll (i :: is) s = runAll is t := by
  rw [runAll, h]

/-- The state at the dispatch of the variant of a frame, its phase apart. -/
def atDispatch (s : State) : State := dispatchDither (afterTonemap 0x01 (.run 0x01 .start 0) s)

theorem exec_runFrame_to_dispatch {s : State} (hq : Quiet s) (hm : NotMidFrame s) (h : FrameRuns s) :
    exec .runFrame s = .next (atDispatch s) := by
  obtain ⟨st, r, hhead⟩ := frameHead_accept hq h.1 h.2.1.2
  rw [exec_runFrame_of_launches hq.1 hm h.launches, hhead]
  rfl

/-- The state after the variant of a frame that left `m` and `g`. -/
def afterVariant (m : List (List Byte)) (g : Word) (s : State) : State := ditherResult 0x01 m g (atDispatch s)

theorem afterVariant_eq (m : List (List Byte)) (g : Word) (s : State) :
    afterVariant m g s =
      { atDispatch s with
        bufs := { (atDispatch s).bufs with mbuf := m }
        valid := { (atDispatch s).valid with mbuf := true }
        diff := ⟨[], none⟩
        rngState := g
        phase := .run 0x01 .depth 0 } := by
  unfold afterVariant ditherResult
  rw [if_pos (by decide)]

/-- The state a whole frame leaves, with memory `mem`. -/
def frameDone (m : List (List Byte)) (g : Word) (mem : Memory) (s : State) : State :=
  { afterVariant m g s with
    status := { (afterVariant m g s).status with done := true }
    valid := ⟨true, true, true, true, true⟩
    bufs := { (afterVariant m g s).bufs with
      dbuf := tailDbuf (afterVariant m g s), cbuf := tailCbuf (afterVariant m g s) }
    phase := .idle
    diff := ⟨[], none⟩
    race := ⟨[], []⟩
    mem := mem }

/-- The destination bytes of a frame: those of its CBUF (R371). -/
abbrev frameBytes (m : List (List Byte)) (g : Word) (s : State) : Nat → Nat → Nat → Byte :=
  outByte (tailCbuf (afterVariant m g s)) (workW (afterVariant m g s)) (workH (afterVariant m g s)) (cfgScale s)

theorem runAll_frame {s : State} {m : List (List Byte)} {g : Word} {i : Instr} (hq : Quiet s) (hm : NotMidFrame s)
    (hw : s.mem.wf = true) (h : FrameRuns s) (hi : exec i (atDispatch s) = .next (afterVariant m g s)) :
    ∃ mem, runAll [.runFrame, i, .runFrame] s = .next (frameDone m g mem s)
      ∧ Stored s.cfg.dstBase.toNat (cfgW s) 4 (frameBytes m g s) (cfgH s * cfgW s) s.mem mem := by
  have htail := exec_frameTail_dest (s := afterVariant m g s) (w := 0x01) (row := 0)
  rw [afterVariant_eq] at htail
  obtain ⟨mem, hrun, hstored⟩ := htail hq rfl hw rfl h.2.2.1.1
  rw [← afterVariant_eq] at hrun hstored
  refine ⟨mem, ?_, hstored⟩
  rw [runAll_cons _ (exec_runFrame_to_dispatch hq hm h), runAll_cons _ hi, runAll_cons _ hrun, frameDone,
    afterVariant_eq]
  rfl

/-! ### The six stages -/

/-- The state SAMPLE leaves. -/
def sampleDone (s : State) : State :=
  { afterCommand s with
    dims := sampledDims s
    valid := ⟨true, false, false, false, false⟩
    bufs := { s.bufs with ibuf := sampledRows s } }

theorem exec_sample_quiet {s : State} (hq : Quiet s) (hf : SourceFits s) (hr : SourceReadable s) :
    exec .sample s = .next (sampleDone s) := by
  obtain ⟨st, r, hstage⟩ := stageSample_accept 0x03 hq hf hr.2
  rw [exec_sample_of_fits hq.1 hf hr.1, hstage, thenComplete_quiet _ (by exact hq.1), out_on,
    completed_quiet (by exact hq.2), sampleDone, afterCommand, hq.2]
  rfl

/-- The state TONEMAP leaves after SAMPLE. -/
def tonemapDone (s : State) : State :=
  { afterCommand (sampleDone s) with
    lut := nextLut s
    valid := ⟨true, true, false, false, false⟩
    bufs := { s.bufs with ibuf := sampledRows s, tbuf := tonedRows s } }

theorem workW_sampledDims {s : State} (hf : SourceFits s) : dimLo (sampledDims s).work = nextW s := by
  rw [sampledDims, ← mkDim_eq_append]
  exact dimLo_mkDim _ (nextW_lt hf)

theorem workH_sampledDims {s : State} (hf : SourceFits s) : dimHi (sampledDims s).work = nextH s := by
  rw [sampledDims, ← mkDim_eq_append]
  exact dimHi_mkDim _ (nextH_lt hf)

theorem exec_tonemap_sampleDone {s : State} (hf : SourceFits s) (hs : s.script = []) (hl : lutFits s ∨ ¬pole s) :
    exec .tonemap (sampleDone s) = .next (tonemapDone s) := by
  have htoned : (rows (workW (sampleDone s)) (workH (sampleDone s)) fun x y =>
      lutGet (nextLut (sampleDone s)).ram (px (sampleDone s).bufs.ibuf x y)) = tonedRows s := by
    rw [show workW (sampleDone s) = nextW s from workW_sampledDims hf,
      show workH (sampleDone s) = nextH s from workH_sampledDims hf]
    exact rows_congr fun x y hx hy => congrArg (lutGet (nextLut s).ram) (px_rows _ hx hy)
  rw [tonemapMapsIbuf (sampleDone s) ⟨hs, rfl⟩ rfl hl, tonemapDone]
  simp only [← lutGet_eq_get]
  rw [htoned]
  rfl

/-- The state at the dispatch of the variant of DITHER. -/
def ditherStarted (s : State) : State := dispatchDither (accept 0x05 (tonemapDone s))

/-- The state DEPTH leaves. -/
def depthDone (u : State) : State :=
  { afterCommand u with
    valid := { u.valid with dbuf := true, cbuf := false }
    bufs := { u.bufs with dbuf := tailDbuf (afterCommand u) } }

theorem exec_depth_quiet {u : State} (hq : Quiet u) (hv : u.valid.mbuf = true) : exec .depth u = .next (depthDone u) :=
  depthShadows u hq hv

/-- The state PALETTE leaves after DEPTH. -/
def paletteDone (u : State) : State :=
  { afterCommand (depthDone u) with
    valid := { u.valid with dbuf := true, cbuf := true }
    bufs := { u.bufs with dbuf := tailDbuf (afterCommand u), cbuf := tailCbuf (afterCommand u) } }

theorem exec_palette_depthDone {u : State} (hs : u.script = []) (h1 : 1 ≤ u.cfg.palCount.toNat)
    (h16 : u.cfg.palCount.toNat ≤ 16) : exec .palette (depthDone u) = .next (paletteDone u) :=
  paletteInterpolates (depthDone u) ⟨hs, rfl⟩ rfl h1 h16

/-- The state after DITHER with its variant, which left `m` and `g`. -/
def variantDone (m : List (List Byte)) (g : Word) (s : State) : State := ditherResult 0x05 m g (ditherStarted s)

theorem variantDone_eq (m : List (List Byte)) (g : Word) (s : State) :
    variantDone m g s =
      { ditherStarted s with
        bufs := { (ditherStarted s).bufs with mbuf := m }
        valid := { (ditherStarted s).valid with mbuf := true }
        diff := ⟨[], none⟩
        rngState := g
        status := { (ditherStarted s).status with done := true }
        phase := .idle
        race := ⟨[], []⟩ } := ditherResult_of_ne_runFrame (by decide) m g _

theorem runAll_stages {s : State} {m : List (List Byte)} {g : Word} {i : Instr} (hq : Quiet s) (hw : s.mem.wf = true)
    (h : FrameRuns s) (hi : exec i (ditherStarted s) = .next (variantDone m g s)) :
    ∃ mem, runAll [.sample, .tonemap, .dither, i, .depth, .palette, .upscale] s
        = .next { afterCommand (paletteDone (variantDone m g s)) with mem := mem }
      ∧ Stored s.cfg.dstBase.toNat (cfgW s) 4 (frameBytes m g s) (cfgH s * cfgW s) s.mem mem := by
  obtain ⟨hf, hr, hd, hl, hp, h1, h16⟩ := h
  have hps : s.cfg.pscale ≠ 0 := by
    rintro he
    rw [he] at hp
    exact absurd hp (by decide)
  have hup := exec_upscale_dest (s := paletteDone (variantDone m g s))
  rw [variantDone_eq] at hup
  obtain ⟨mem, hrun, hstored⟩ := hup ⟨hq.1, rfl⟩ hw rfl hd
  rw [← variantDone_eq] at hrun
  have hdepth := exec_depth_quiet (u := variantDone m g s)
  have hpal := exec_palette_depthDone (u := variantDone m g s)
  rw [variantDone_eq] at hdepth hpal
  refine ⟨mem, ?_, hstored⟩
  rw [runAll_cons _ (exec_sample_quiet hq hf hr), runAll_cons _ (exec_tonemap_sampleDone hf hq.1 hl),
    runAll_cons _ (exec_dither_quiet (tonemapDone s) hq.1 rfl hps)]
  rw [show dispatchDither (accept 0x05 (tonemapDone s)) = ditherStarted s from rfl, runAll_cons _ hi, variantDone_eq,
    runAll_cons _ (hdepth ⟨hq.1, rfl⟩ rfl), runAll_cons _ (hpal hq.1 h1 h16), ← variantDone_eq, runAll_cons _ hrun]
  rfl

end Sys2Proof.Machine
end

section
/-! PROOFS. RUN_FRAME is its six stages, and a frame is a function of its source and configuration (40_commands.md
section 3, 00_scope.md section 1). -/

namespace Sys2Proof.Machine

/-- A place of a destination is a byte of one of its writes. -/
theorem Stored.inside_at {base count u N : Nat} {b : Nat → Nat → Nat → Byte} {m m' : Memory}
    (h : Stored base count u b N m m') (hu : 0 < u) {a : Nat} (hlo : base ≤ a) (hhi : a < base + u * N) :
    m'.read a = b ((a - base) / u % count) ((a - base) / u / count) ((a - base) % u) := by
  have hplace : a = base + u * ((a - base) / u) + (a - base) % u := by
    rw [Nat.add_assoc, Nat.div_add_mod]
    omega
  have hlt : (a - base) / u < N := Nat.div_lt_of_lt_mul (by omega)
  calc m'.read a = m'.read (base + u * ((a - base) / u) + (a - base) % u) := by rw [← hplace]
    _ = _ := h.inside _ _ hlt (Nat.mod_lt _ hu)

/-- Two memories in which the same bytes are stored in the same memory are one. -/
theorem Stored.unique {base count u N : Nat} {b : Nat → Nat → Nat → Byte} {m m₁ m₂ : Memory}
    (h₁ : Stored base count u b N m m₁) (h₂ : Stored base count u b N m m₂) (hu : 0 < u) : m₁ = m₂ := by
  refine memory_ext _ _ h₁.wf h₂.wf fun a => ?_
  by_cases ha : a < base ∨ base + u * N ≤ a
  · rw [h₁.outside a ha, h₂.outside a ha]
  · rw [h₁.inside_at hu (by omega) (by omega), h₂.inside_at hu (by omega) (by omega)]

/-- The variant of a frame and that of DITHER after SAMPLE and TONEMAP compute the same. -/
theorem variant_of_frame_and_stages {s : State} {i : Instr} (hq : Quiet s) (hi : isCommand i = false) :
    ∃ m g, exec i (atDispatch s) = .next (afterVariant m g s)
      ∧ exec i (ditherStarted s) = .next (variantDone m g s) :=
  sameDither_of_agrees (s := atDispatch s) (t := ditherStarted s) hi ⟨rfl, rfl, rfl, rfl⟩ rfl 0x01 0x05 0 0
    (by exact hq) ⟨hq.1, rfl⟩ rfl rfl

theorem frameDone_eq_stages (m : List (List Byte)) (g : Word) (mem : Memory) {s : State}
    (hp : s.status.pending = false) :
    frameDone m g mem s =
      { { afterCommand (paletteDone (variantDone m g s)) with mem := mem } with dimsBefore := s.dims } := by
  have hstatus : (frameDone m g mem s).status = (afterCommand (paletteDone (variantDone m g s))).status := by
    rw [frameDone, afterVariant_eq, variantDone_eq]
    simp [atDispatch, dispatchDither, startDither, afterTonemap, afterSample, accept, afterCommand, paletteDone,
      depthDone, ditherStarted, tonemapDone, sampleDone, hp]
  have hrest : { frameDone m g mem s with status := (afterCommand (paletteDone (variantDone m g s))).status } =
      { { afterCommand (paletteDone (variantDone m g s)) with mem := mem } with dimsBefore := s.dims } := by
    rw [frameDone, afterVariant_eq, variantDone_eq]
    rfl
  rw [← hrest, ← hstatus]

/-- Settles O21: both runs compute the same MBUF and random state, and store the same bytes. -/
theorem frameIsStages : Obligations.FrameIsStages := by
  intro s hq hm hw h
  obtain ⟨m, g, hframe, hstages⟩ := variant_of_frame_and_stages hq (isCommand_decode_style s.cfg.style)
  obtain ⟨mem, hrun, hstored⟩ := runAll_frame hq hm hw h hframe
  obtain ⟨mem', hrun', hstored'⟩ := runAll_stages hq hw h hstages
  obtain rfl := hstored.unique hstored' (by decide)
  exact ⟨_, _, hrun, hrun', rfl, rfl, frameDone_eq_stages m g mem hq.2⟩

/-! ### Two frames -/

/-- The LUT of a frame is the table of the live tone registers (42_tone_curve_lut.md R223). -/
theorem nextLut_ram {s : State} (h : LutOk s) : (nextLut s).ram = lutTable s.cfg.tone := by
  unfold nextLut
  split
  next hf => rw [(h hf.1).1, hf.2]
  next => rfl

section
variable {s s' : State}

theorem sampledDims_congr (hc : s.cfg = s'.cfg) : sampledDims s = sampledDims s' := by
  unfold sampledDims nextW nextH cfgW cfgH cfgScale
  rw [hc]

/-- The luminances of the sampled pixels lie in the source region. -/
theorem lumAt_pixelAddr_congr (hf : SourceFits s) (hc : s.cfg = s'.cfg)
    (hm : ∀ a, s.cfg.srcBase.toNat ≤ a → a < s.cfg.srcBase.toNat + 4 * cfgW s * cfgH s → s.mem.read a = s'.mem.read a)
    {x y : Nat} (hx : x < nextW s) (hy : y < nextH s) :
    lumAt s.mem (pixelAddr s x y) = lumAt s'.mem (pixelAddr s' x y) := by
  have hle := pixelAddr_le hf hx hy
  have hlo : s.cfg.srcBase.toNat ≤ pixelAddr s x y := Nat.le_add_right _ _
  have haddr : pixelAddr s' x y = pixelAddr s x y := by
    unfold pixelAddr cfgW cfgScale
    rw [hc]
  rw [haddr, lumAt, lumAt, hm _ hlo (by omega), hm _ (by omega) (by omega), hm _ (by omega) (by omega)]

theorem nextW_congr (hc : s.cfg = s'.cfg) : nextW s = nextW s' := by
  unfold nextW cfgW cfgScale
  rw [hc]

theorem nextH_congr (hc : s.cfg = s'.cfg) : nextH s = nextH s' := by
  unfold nextH cfgH cfgScale
  rw [hc]

theorem tailDbuf_congr (hd : s.dims = s'.dims) (hs : s.snap = s'.snap) (hm : s.bufs.mbuf = s'.bufs.mbuf) :
    tailDbuf s = tailDbuf s' := by
  unfold tailDbuf workW workH
  rw [hd, hs, hm]

theorem tailCbuf_congr (hd : s.dims = s'.dims) (hs : s.snap = s'.snap) (hm : s.bufs.mbuf = s'.bufs.mbuf) :
    tailCbuf s = tailCbuf s' := by
  unfold tailCbuf
  rw [tailDbuf_congr hd hs hm, workW, workH, workW, workH, hd, hs]

end

theorem frameDone_bufs (m : List (List Byte)) (g : Word) (mem : Memory) (s : State) :
    (frameDone m g mem s).bufs = ⟨sampledRows s, tonedRows s, m, tailDbuf (afterVariant m g s),
      tailCbuf (afterVariant m g s)⟩ := by
  rw [frameDone, afterVariant_eq]
  rfl

theorem frameDone_dims (m : List (List Byte)) (g : Word) (mem : Memory) (s : State) :
    (frameDone m g mem s).dims = sampledDims s := by
  rw [frameDone, afterVariant_eq]
  rfl

/-- Settles O22: the states at the dispatch agree, so the variant computes the same, and the bytes stored are the same
function of what it computed. -/
theorem framePure : Obligations.FramePure := by
  intro s s' hq hq' hm hm' hw hw' hlut hlut' h h' hc hplat hfree hsrc
  have hdims := sampledDims_congr hc
  have hsampled : sampledRows s = sampledRows s' := by
    rw [sampledRows, sampledRows, ← nextW_congr hc, ← nextH_congr hc]
    exact rows_congr fun x y hx hy => lumAt_pixelAddr_congr h.1 hc hsrc hx hy
  have htoned : tonedRows s = tonedRows s' := by
    rw [tonedRows, tonedRows, ← nextW_congr hc, ← nextH_congr hc, nextLut_ram hlut, nextLut_ram hlut', ← hc]
    exact rows_congr fun x y hx hy => congrArg _ (lumAt_pixelAddr_congr h.1 hc hsrc hx hy)
  have hrng : (atDispatch s').rngState = (atDispatch s).rngState := by
    show (if s'.cfg.rngFree then s'.rngState else s'.cfg.rngSeed) = if s.cfg.rngFree then s.rngState else s.cfg.rngSeed
    rw [← hc, hfree]
    rfl
  obtain ⟨m, g, hrun, hrun'⟩ := sameDither_of_agrees (isCommand_decode_style s.cfg.style)
    (⟨hc.symm, htoned.symm, hdims.symm, hplat.symm⟩ : Agrees (atDispatch s) (atDispatch s')) hrng 0x01 0x01 0 0
    (by exact hq) (by exact hq') rfl rfl
  obtain ⟨mem, hframe, hstored⟩ := runAll_frame hq hm hw h hrun
  obtain ⟨mem', hframe', hstored'⟩ := runAll_frame hq' hm' hw' h' hrun'
  have hd : (afterVariant m g s).dims = (afterVariant m g s').dims := by
    rw [afterVariant_eq, afterVariant_eq]
    exact hdims
  have hs : (afterVariant m g s).snap = (afterVariant m g s').snap := by
    rw [afterVariant_eq, afterVariant_eq]
    exact hc
  have hmb : (afterVariant m g s).bufs.mbuf = (afterVariant m g s').bufs.mbuf := by
    rw [afterVariant_eq, afterVariant_eq]
  have hbytes : frameBytes m g s' = frameBytes m g s := by
    unfold frameBytes workW workH cfgScale
    rw [← hd, ← tailCbuf_congr hd hs hmb, ← hc]
  refine ⟨_, _, hframe, hframe', ?_, ?_, rfl, fun a hlo hhi => ?_⟩
  · rw [frameDone_bufs, frameDone_bufs, hsampled, htoned, tailDbuf_congr hd hs hmb, tailCbuf_congr hd hs hmb]
  · rw [frameDone_dims, frameDone_dims, hdims]
  · rw [Nat.mul_comm (cfgW s)] at hhi
    rw [hbytes, cfgW, cfgH, ← hc] at hstored'
    exact (hstored.inside_at (by decide) hlo hhi).trans (hstored'.inside_at (by decide) hlo hhi).symm

end Sys2Proof.Machine
end

section
/-! PROOFS. The rows of the SAMPLE stage in every world, and the first refused read (41_downsampler.md section 3,
60_exceptions.md R410). -/

namespace Sys2Proof.Machine

/-- A state inside the SAMPLE stage: what its rows change is IBUF and the row. -/
def sampleState (s : State) (b : List (List Byte)) (p : Phase) : State :=
  { s with bufs := { s.bufs with ibuf := b }, phase := p }

/-- The running word `w` has sampled `n` rows, and `s` was the state before them. -/
def Sampling (s : State) (w : Word) (n : Nat) (t : State) : Prop :=
  ∃ b stage row, b.length = n ∧ t = sampleState s b (.run w stage row)

section
variable {s t : State} {w : Word} {n : Nat}

theorem Sampling.busy (h : Sampling s w n t) : busy t = true := by
  obtain ⟨b, stage, row, -, rfl⟩ := h
  rfl

theorem Sampling.atRow (h : Sampling s w n t) (stage : Stage) (row : Nat) : Sampling s w n (atRow stage row t) := by
  obtain ⟨b, st, r, hb, rfl⟩ := h
  exact ⟨b, stage, row, hb, rfl⟩

/-- The reads of a row that go through, each with its landing point. -/
theorem sampleRow_skip {r : Bool} (hs : s.race.touched = []) (as bs : List Nat) (row : List Byte)
    (ha : ∀ a ∈ as, a + 4 ≤ 4294967296 ∧ refuses s a 4 .read = false) {σ : World} (ht : t.inReset = r)
    (hP : Sampling s w n t) (hl : σ.Lets r as.length) :
    ∃ row', sampleRow (as ++ bs) row (inWorld σ t) = sampleRow bs row' (inWorld (σ.after as.length) t) := by
  induction as generalizing row σ with
  | nil => exact ⟨row, by rw [List.length_nil, World.after_zero]; rfl⟩
  | cons a as ih =>
    obtain ⟨hfit, hread⟩ := ha a List.mem_cons_self
    rw [List.length_cons, Nat.add_comm] at hl ⊢
    obtain ⟨row', hrest⟩ := ih (row ++ [lumAt t.mem a]) (fun c hc => ha c (List.mem_cons_of_mem _ hc)) hl.after
    refine ⟨row', ?_⟩
    have htouched : (inWorld σ t).race.touched = [] := by
      obtain ⟨b, st, r', -, rfl⟩ := hP
      exact hs
    have hgo : refuses (inWorld σ t) a 4 .read = false := by
      obtain ⟨b, st, r', -, rfl⟩ := hP
      exact hread
    rw [List.cons_append, sampleRow, if_neg (Nat.not_lt.2 hfit), hgo, if_neg (by decide),
      samplePixel_quiet _ _ htouched, land_inWorld [] hP.busy (by rw [ht]; exact hl.mono (Nat.le_add_right _ _)),
      andThen_on, ← World.after_after hl]
    exact hrest

/-- The SAMPLE stage's row y. -/
abbrev sampleBody (y : Nat) (s : State) : Flow :=
  sampleRow ((List.range (workW s)).map fun x => sampleAddr s x y) [] s

theorem takes_sampleRow {r : Bool} (hs : s.race.touched = []) {y : Nat}
    (ha : ∀ x, x < workW s → sampleAddr s x y + 4 ≤ 4294967296 ∧ refuses s (sampleAddr s x y) 4 .read = false) :
    Takes r (workW s + 2) (rowStep .sample noWrites sampleBody y) (Sampling s w n) (Sampling s w (n + 1)) := by
  have hreads : Takes r (workW s) (sampleBody y) (Sampling s w n) (Sampling s w (n + 1)) := by
    intro t σ ht hP hl
    obtain ⟨row, hrun⟩ := sampleRow_skip (σ := σ) hs ((List.range (workW s)).map fun x => sampleAddr s x y) [] []
      (fun a hm => by
        obtain ⟨x, hx, rfl⟩ := List.mem_map.1 hm
        exact ha x (List.mem_range.1 hx)) ht hP (by simpa using hl)
    rw [List.append_nil, List.length_map, List.length_range] at hrun
    obtain ⟨b, st, r', hb, rfl⟩ := hP
    exact ⟨sampleState s (b ++ [row]) (.run w st r'), ht, ⟨b ++ [row], st, r', by simp [hb], rfl⟩, hrun⟩
  rw [show workW s + 2 = 1 + workW s + 1 by omega]
  exact (((takes_land (fun _ => []) fun _ h => h.busy).comp (f := atRow .sample y) (fun _ _ => rfl) (fun _ => rfl)
    fun _ h => h.atRow .sample y).andThen hreads).andThen (takes_land (fun _ => []) fun _ h => h.busy)

theorem range_split {n x : Nat} (hx : x < n) :
    List.range n = List.range x ++ x :: List.range' (x + 1) (n - (x + 1)) := by
  obtain ⟨m, rfl⟩ : ∃ m, n = x + (m + 1) := ⟨n - (x + 1), by omega⟩
  rw [List.range_eq_range', List.range_eq_range', ← List.range'_append_1, Nat.zero_add, List.range'_succ,
    show x + (m + 1) - (x + 1) = m by omega]

/-- Row y with its first refused read at column x, where nothing lands. -/
theorem rowStep_sample_bus {c : Word} {b : Bool} {x y : Nat} (hs : s.race.touched = []) (hx : x < workW s)
    (ha : ∀ x', x' ≤ x → sampleAddr s x' y + 4 ≤ 4294967296)
    (hgo : ∀ x', x' < x → refuses s (sampleAddr s x' y) 4 .read = false)
    (href : refuses s (sampleAddr s x y) 4 .read = true) (hP : Sampling s w n t) :
    rowStep .sample noWrites sampleBody y (inWorld (World.still c b) t) =
      .ended (.next (failed .bus (BitVec.ofNat 32 (sampleAddr s x y))
        (inWorld (World.still c b) (atRow .sample y t)))) := by
  have hP' := hP.atRow .sample y
  have haddrs : ((List.range (workW s)).map fun x => sampleAddr s x y) = ((List.range x).map fun x => sampleAddr s x y)
      ++ sampleAddr s x y :: ((List.range' (x + 1) (workW s - (x + 1))).map fun x => sampleAddr s x y) := by
    rw [range_split hx, List.map_append, List.map_cons]
  obtain ⟨row, hrun⟩ := sampleRow_skip (r := t.inReset) (t := atRow .sample y t)
    (σ := World.still c b) hs
    ((List.range x).map fun x => sampleAddr s x y)
    (sampleAddr s x y :: ((List.range' (x + 1) (workW s - (x + 1))).map fun x => sampleAddr s x y)) []
    (fun a hm => by
      obtain ⟨x', hx', rfl⟩ := List.mem_map.1 hm
      have hlt := List.mem_range.1 hx'
      exact ⟨ha x' (by omega), hgo x' hlt⟩) rfl hP' (World.lets_still _ _ _ _)
  rw [World.after_still] at hrun
  have hbody : sampleBody y (inWorld (World.still c b) (atRow .sample y t)) =
      .ended (.next (failed .bus (BitVec.ofNat 32 (sampleAddr s x y))
        (inWorld (World.still c b) (atRow .sample y t)))) := by
    obtain ⟨buf, st, r', -, hP'⟩ := hP'
    rw [hP'] at hrun ⊢
    have hrow : sampleBody y (inWorld (World.still c b) (sampleState s buf (.run w st r'))) =
        sampleRow ((List.range (workW s)).map fun x => sampleAddr s x y) []
          (inWorld (World.still c b) (sampleState s buf (.run w st r'))) := rfl
    rw [hrow, haddrs, hrun, sampleRow, if_neg (Nat.not_lt.2 (ha x (Nat.le_refl x))), if_pos (by exact href),
      raiseError_quiet _ _ _ rfl]
  have hland : land [] (atRow .sample y (inWorld (World.still c b) t)) =
      .on (inWorld (World.still c b) (atRow .sample y t)) := land_quiet _ _ rfl
  rw [rowStep, noWrites, hland, andThen_on, hbody, andThen_ended]

end

/-! ### The stage after acceptance -/

theorem sampling_startSample (w : Word) (s : State) :
    Sampling (startSample (accept w s)) w 0 (startSample (accept w s)) := ⟨[], .start, 0, rfl, rfl⟩

/-- The SAMPLE stage of the accepted word `w` with its first refused read at working cell (x, y). -/
theorem stageSample_bus (w : Word) {s : State} {x y : Nat} (hq : Quiet s) (hf : SourceFits s) (hx : x < nextW s)
    (hy : y < nextH s) (href : refuses s (pixelAddr s x y) 4 .read = true)
    (hgo : ∀ x' y', x' < nextW s → y' < y ∨ y' = y ∧ x' < x → refuses s (pixelAddr s x' y') 4 .read = false) :
    ∃ b, stageSample (accept w s) = .ended (.next
      { afterError .bus (cmdOp w) (BitVec.ofNat 32 (pixelAddr s x y)) s with
        dims := sampledDims s
        valid := Valid.none
        bufs := { s.bufs with ibuf := b } }) := by
  have hw := workW_startSample w hf
  have hh := workH_startSample w hf
  have hfit {x' y' : Nat} (hx' : x' < nextW s) (hy' : y' < nextH s) :
      sampleAddr (startSample (accept w s)) x' y' + 4 ≤ 4294967296 :=
    (pixelAddr_le hf hx' hy').trans hf.2.2.2.2.2
  have hself : inWorld (World.still s.pendCmd false) (startSample (accept w s)) = startSample (accept w s) :=
    inWorld_eq_self hq.1 rfl hq.2
  obtain ⟨o, ⟨b, ho⟩, hrun⟩ := rowLoop_ends (r := s.inReset) (P := Sampling (startSample (accept w s)) w)
    (stage := .sample) (writes := noWrites) (body := sampleBody) (σ := World.still s.pendCmd false)
    (n := nextH s) (p := workW (startSample (accept w s)) + 2) (s := startSample (accept w s))
    (R := fun o => ∃ b, o = .next
      { afterError .bus (cmdOp w) (BitVec.ofNat 32 (pixelAddr s x y)) s with
        dims := sampledDims s
        valid := Valid.none
        bufs := { s.bufs with ibuf := b } }) y hy
    (fun y' hy' => takes_sampleRow rfl fun x' hx' => by
      rw [hw] at hx'
      exact ⟨hfit hx' (hy'.trans hy), hgo x' y' hx' (.inl hy')⟩)
    rfl (sampling_startSample w s) (World.lets_still _ _ _ _) (.inr (by rw [World.after_still]; rfl))
    (fun t _ hP => by
      refine ⟨_, ?_, by
        rw [World.after_still]
        exact rowStep_sample_bus rfl (by rwa [hw]) (fun x' hx' => hfit (by omega) hy)
          (fun x' hx' => hgo x' y (by omega) (.inr ⟨rfl, hx'⟩)) href hP⟩
      obtain ⟨b, st, r, -, rfl⟩ := hP
      refine ⟨b, ?_⟩
      rw [startSample, latchDims_accept, afterError, afterCommand, hq.2, hq.1]
      rfl)
  refine ⟨b, ?_⟩
  rw [hself, ← hh] at hrun
  rw [stageSample, land_quiet _ _ (by exact hq.1), andThen_on]
  exact (congrArg (fun f => Flow.andThen f _) hrun).trans (congrArg Flow.ended ho)

/-- Settles O23: both commands are the SAMPLE stage from acceptance, and it ends the command. -/
theorem sampleBus : Obligations.SampleBus := by
  intro s x y hq hx hy href hgo
  have hsample (w : Word) (hf : SourceFits s) := stageSample_bus w hq hf hx hy href hgo
  refine ⟨fun hf ho => ?_, fun hm hl => ?_⟩
  · obtain ⟨b, hb⟩ := hsample 0x03 hf
    exact ⟨b, by rw [exec_sample_of_fits hq.1 hf ho, hb]; rfl⟩
  · obtain ⟨b, hb⟩ := hsample 0x01 hl.1
    exact ⟨b, by rw [exec_runFrame_of_launches hq.1 hm hl, frameHead, hb]; rfl⟩

end Sys2Proof.Machine
end

section
/-! PROOFS. The first refused write of a stage that writes a destination (60_exceptions.md R410): the writes before it
are performed, and the command fails with that write's address. -/

namespace Sys2Proof.Machine

section
variable {s : State} {w : Word} {base count u : Nat} {b : Nat → Nat → Nat → Byte}

/-- A row whose first refused write is number X, where nothing lands. -/
theorem rowStep_write_bus {stage : Stage} {writes : Nat → State → List PortWrite} {c : Word} {p : Bool} {X Y : Nat}
    (hw : WritesDest s base count u b writes) (hX : X < count) (hle : base + u * ((Y + 1) * count) ≤ 4294967296)
    (hgo : ∀ X', X' < X → refuses s (base + u * (Y * count + X')) u .write = false)
    (href : refuses s (base + u * (Y * count + X)) u .write = true) {t : State}
    (hP : Storing s w base count u b (Y * count) t) :
    ∃ t', Storing s w base count u b (Y * count + X) t'
      ∧ rowStep stage writes (fun y s => performWrites (writes y s) s) Y (inWorld (World.still c p) t)
        = .ended (.next (failed .bus (BitVec.ofNat 32 (base + u * (Y * count + X)))
          (inWorld (World.still c p) t'))) := by
  have hrow : (Y + 1) * count = Y * count + count := Nat.succ_mul Y count
  rw [hrow] at hle
  obtain ⟨t', -, hP', hskip⟩ := performWrites_skip (r := t.inReset) (σ := World.still c p) X count 0 (by omega)
    (by omega) hle (fun X' _ h => hgo X' (by omega)) (t := atRow stage Y t) rfl
    (hP.atRow stage Y) (World.lets_still _ _ _ _)
  refine ⟨t', hP', ?_⟩
  have hwrites : writes Y (inWorld (World.still c p) (atRow stage Y t)) = destRow base count u b Y 0 count := by
    obtain ⟨m, record, st, row, -, hP⟩ := hP.atRow stage Y
    rw [hP, hw]
  have hfit : ¬4294967296 < (destWrite base count u b Y X).addr + (destWrite base count u b Y X).bytes.length := by
    have hmul : u * (Y * count + X + 1) ≤ u * (Y * count + count) := Nat.mul_le_mul_left u (by omega)
    rw [length_destWrite, Nat.not_lt]
    show base + u * (Y * count + X) + u ≤ 4294967296
    rw [Nat.mul_add u _ 1] at hmul
    omega
  have href' : refuses (inWorld (World.still c p) t') (destWrite base count u b Y X).addr
      (destWrite base count u b Y X).bytes.length .write = true := by
    rw [length_destWrite]
    obtain ⟨m, record, st, row, -, rfl⟩ := hP'
    exact href
  obtain ⟨n, hn⟩ : ∃ n, count - X = n + 1 := ⟨count - X - 1, by omega⟩
  have hbody : performWrites (writes Y (inWorld (World.still c p) (atRow stage Y t)))
      (inWorld (World.still c p) (atRow stage Y t)) = .ended (.next (failed .bus
        (BitVec.ofNat 32 (base + u * (Y * count + X))) (inWorld (World.still c p) t'))) := by
    rw [hwrites, hskip, World.after_still, Nat.zero_add, hn, destRow_succ, performWrites, if_neg hfit, if_pos href',
      raiseError_quiet _ _ _ rfl]
    rfl
  rw [rowStep, land_quiet _ _ rfl, andThen_on]
  exact congrArg (fun f => Flow.andThen f _) hbody

/-- A writing stage where nothing lands, with its first refused write at column X of row Y. -/
theorem writingRows_bus {stage : Stage} {writes : Nat → State → List PortWrite} {height X Y : Nat} (hq : Quiet s)
    (hs : Storing s w base count u b 0 s) (hw : WritesDest s base count u b writes) (hX : X < count) (hY : Y < height)
    (hle : base + u * (height * count) ≤ 4294967296)
    (hgo : ∀ k, k < Y * count + X → refuses s (base + u * k) u .write = false)
    (href : refuses s (base + u * (Y * count + X)) u .write = true) :
    ∃ t, Storing s w base count u b (Y * count + X) t ∧ writingRows stage height writes s
      = .ended (.next (failed .bus (BitVec.ofNat 32 (base + u * (Y * count + X))) t)) := by
  have hworld {N : Nat} {t : State} (h : Storing s w base count u b N t) :
      inWorld (World.still s.pendCmd false) t = t := by
    obtain ⟨m, record, st, row, -, rfl⟩ := h
    exact inWorld_eq_self hq.1 rfl hq.2
  obtain ⟨o, ⟨t, ht, rfl⟩, hrun⟩ := rowLoop_ends (P := fun y => Storing s w base count u b (y * count)) (stage := stage)
    (n := height) (R := fun o => ∃ t, Storing s w base count u b (Y * count + X) t
      ∧ o = .next (failed .bus (BitVec.ofNat 32 (base + u * (Y * count + X))) t)) Y hY
    (fun y hy => takes_writingRow (r := s.inReset) hw (row_le (hy.trans hY) hle) fun X' hX' =>
      hgo _ ((place_lt hy hX').trans_le (Nat.le_add_right _ _)))
    rfl (by simpa using hs) (World.lets_still s.pendCmd false _ _) (.inr (by rw [World.after_still]; rfl))
    (fun t _ hP => by
      obtain ⟨t', hP', hrun⟩ := rowStep_write_bus (stage := stage) (c := s.pendCmd) (p := false) hw hX (row_le hY hle)
        (fun X' hX' => hgo _ (Nat.add_lt_add_left hX' _)) href hP
      exact ⟨_, ⟨t', hP', rfl⟩, by rw [World.after_still, hrun, hworld hP']⟩)
  rw [hworld hs] at hrun
  exact ⟨t, ht, hrun⟩

/-- A command that writes a destination, from acceptance, with its first refused write at column X of row Y. -/
theorem runCommand_bus {checks : State → List Check} {regions : State → List Region} {stage : Stage}
    {height : State → Nat} {writes : Nat → State → List PortWrite} {X Y : Nat} (hq : Quiet s) (hm : s.mem.wf = true)
    (hc : firstFail (checks (accept w s)) = none) (hr : (regions (accept w s)).any (meetsDevice (accept w s)) = false)
    (hw : WritesDest (accept w s) base count u b writes) (hX : X < count) (hY : Y < height (accept w s))
    (hle : base + u * (height (accept w s) * count) ≤ 4294967296)
    (hgo : ∀ k, k < Y * count + X → refuses s (base + u * k) u .write = false)
    (href : refuses s (base + u * (Y * count + X)) u .write = true) :
    ∃ m, runCommand w checks regions (fun s => thenComplete (writingRows stage (height s) writes s)) s
        = .next { afterError .bus (cmdOp w) (BitVec.ofNat 32 (base + u * (Y * count + X))) s with mem := m }
      ∧ Stored base count u b (Y * count + X) s.mem m := by
  obtain ⟨t, ⟨m, record, st, row, hstored, rfl⟩, hrun⟩ :=
    writingRows_bus (stage := stage) (quiet_accept w hq) (storing_zero rfl hm rfl) hw hX hY hle hgo href
  refine ⟨m, ?_, hstored⟩
  rw [runCommand_runs w _ _ _ s hq.1 hc hr, hrun, failed, endCommand, afterError, afterCommand]
  rfl

end

/-! ### The commands -/

theorem exec_upscale_bus {s : State} {X Y : Nat} (hq : Quiet s) (hm : s.mem.wf = true) (hv : s.valid.cbuf = true)
    (hle : s.cfg.dstBase.toNat + 4 * dimLo s.dims.src * dimHi s.dims.src ≤ 4294967296)
    (hdev : meetsDevice s ⟨s.cfg.dstBase.toNat, 4 * dimLo s.dims.src * dimHi s.dims.src⟩ = false)
    (hX : X < dimLo s.dims.src) (hY : Y < dimHi s.dims.src)
    (href : refuses s (s.cfg.dstBase.toNat + 4 * (Y * dimLo s.dims.src + X)) 4 .write = true)
    (hgo : ∀ k, k < Y * dimLo s.dims.src + X → refuses s (s.cfg.dstBase.toNat + 4 * k) 4 .write = false) :
    ∃ m, exec .upscale s = .next { afterError .bus 8
        (BitVec.ofNat 32 (s.cfg.dstBase.toNat + 4 * (Y * dimLo s.dims.src + X))) s with mem := m }
      ∧ Stored s.cfg.dstBase.toNat (dimLo s.dims.src) 4
        (outByte s.bufs.cbuf (workW s) (workH s) s.dims.scale.toNat) (Y * dimLo s.dims.src + X) s.mem m := by
  have hle' := hle
  rw [Nat.mul_assoc, Nat.mul_comm (dimLo s.dims.src)] at hle'
  exact runCommand_bus (w := 0x08) (stage := .upscale) (height := latH) hq hm (firstFail_dest hv hle)
    ((Bool.or_false _).trans hdev) (upscaleWrites_dest (accept 0x08 s)) hX hY hle' hgo href

/-- A DUMP with its first refused write, from the bytes of its elements. -/
theorem exec_dump_bus {i : Instr} {w : Word} {valid : Valid → Bool} {e : Nat} {elem : State → Nat → Nat → List Byte}
    {s : State} (hexec : exec i s = runDump w valid e elem s) (hop : cmdOp w = 9) (hq : Quiet s) (hm : s.mem.wf = true)
    (hv : valid s.valid = true)
    (helem : ∀ σ m record p, elem (inWorld σ (writeState (accept w s) m record p)) = elem (accept w s)) :
    DumpBus i e (fun x y k => (elem (accept w s) x y).getD k 0) s := by
  intro f hle hdev hf href hgo
  have hrow : 0 < e * workW s := Nat.pos_of_ne_zero fun h => by simp [h] at hf
  have hplace : f / (e * workW s) * (e * workW s) + f % (e * workW s) = f := by rw [Nat.mul_comm, Nat.div_add_mod]
  have hY : f / (e * workW s) < workH s := Nat.div_lt_of_lt_mul hf
  have hwork : workW (accept w s) = workW s := rfl
  obtain ⟨m, hrun, hstored⟩ := runCommand_bus (w := w) (stage := .dump) (height := workH) (u := 1)
    (X := f % (e * workW s)) (Y := f / (e * workW s)) (checks := fun s => [checkSeq (valid s.valid),
      checkRange s.snap.dstBase (e * workW s * workH s)]) (regions := fun s => [⟨s.snap.dstBase.toNat,
      e * workW s * workH s⟩]) hq hm (firstFail_dest hv hle)
    ((Bool.or_false _).trans hdev) (dumpWrites_dest helem) (Nat.mod_lt _ hrow) hY
    (by rw [Nat.one_mul, Nat.mul_comm (workH _)]; exact hle)
    (fun k hk => by rw [Nat.one_mul]; exact hgo k (by rwa [hwork, hplace] at hk))
    (by rw [Nat.one_mul, hwork, hplace]; exact href)
  rw [hwork, hplace, Nat.one_mul, hop] at hrun
  rw [hwork, hplace] at hstored
  refine ⟨m, ?_, fun x y k hx hk hlt => ?_, fun a ha => hstored.outside a (by rwa [Nat.one_mul])⟩
  · rw [hexec]
    exact hrun
  · obtain ⟨helt, hdiv, hmod⟩ := elem_place (workW s) x y hk
    have hread := hstored.read (k := 0) (elem_lt hx hk) (helt ▸ hlt) Nat.one_pos
    rw [hdiv, hmod, Nat.one_mul, Nat.add_zero] at hread
    rwa [Nat.add_assoc, helt]

theorem dumpBus_byte {i : Instr} {w : Word} {valid : Valid → Bool} {buf : Bufs → List (List Byte)} {s : State}
    (hexec : exec i s = runDump w valid 1 (fun s x y => [px (buf s.bufs) x y]) s) (hop : cmdOp w = 9) (hq : Quiet s)
    (hm : s.mem.wf = true) (hv : valid s.valid = true) : DumpBus i 1 (fun x y _ => px (buf s.bufs) x y) s := by
  intro f hle hdev hf href hgo
  obtain ⟨m, hrun, hread, hrest⟩ := exec_dump_bus hexec hop hq hm hv (fun _ _ _ _ => rfl) f hle hdev hf href hgo
  refine ⟨m, hrun, fun x y k hx hk hlt => ?_, hrest⟩
  obtain rfl : k = 0 := by omega
  exact hread x y 0 hx hk hlt

/-- The last step of RUN_FRAME with its first refused write at pixel (X, Y). -/
theorem exec_frameTail_bus {s : State} {w : Word} {row X Y : Nat} (hq : Quiet s) (hp : s.phase = .run w .depth row)
    (hm : s.mem.wf = true) (ht : s.race.touched = [])
    (hle : s.snap.dstBase.toNat + 4 * (dimLo s.dims.src * dimHi s.dims.src) ≤ 4294967296)
    (hX : X < dimLo s.dims.src) (hY : Y < dimHi s.dims.src)
    (href : refuses s (s.snap.dstBase.toNat + 4 * (Y * dimLo s.dims.src + X)) 4 .write = true)
    (hgo : ∀ k, k < Y * dimLo s.dims.src + X → refuses s (s.snap.dstBase.toNat + 4 * k) 4 .write = false) :
    ∃ m, exec .runFrame s = .next
        { s with
          status := { s.status with err := true }
          report := ⟨errCode .bus, w.extractLsb' 0 4,
            BitVec.ofNat 32 (s.snap.dstBase.toNat + 4 * (Y * dimLo s.dims.src + X))⟩
          valid := { s.valid with dbuf := true, cbuf := true }
          bufs := { s.bufs with dbuf := tailDbuf s, cbuf := tailCbuf s }
          phase := .idle
          diff := ⟨[], none⟩
          race := ⟨[], []⟩
          mem := m }
      ∧ Stored s.snap.dstBase.toNat (dimLo s.dims.src) 4
        (outByte (tailCbuf s) (workW s) (workH s) s.dims.scale.toNat) (Y * dimLo s.dims.src + X) s.mem m := by
  obtain ⟨st, r, hstages⟩ := stages_to_palette hq hp
  rw [Nat.mul_comm (dimLo s.dims.src)] at hle
  obtain ⟨t, ⟨m, record, st', row', hstored, rfl⟩, hrun⟩ :=
    writingRows_bus (s := afterPalette (.run w st r) s) (stage := .upscale) hq (storing_zero rfl hm ht)
      (upscaleWrites_dest _) hX hY hle hgo href
  have hstage : stageUpscale (afterPalette (.run w st r) s) = .ended (.next (failed .bus
      (BitVec.ofNat 32 (s.snap.dstBase.toNat + 4 * (Y * dimLo s.dims.src + X)))
      (writeState (afterPalette (.run w st r) s) m record (.run w st' row')))) := hrun
  refine ⟨m, ?_, hstored⟩
  rw [exec, execRunFrame_of_midFrame hp, frameTail, hstages, andThen_on, hstage]
  show Host.Outcome.next (failed _ _ _) = _
  simp [failed, endCommand, setErr, setErrAddr, setErrCode, writesPerformed, afterPalette, writeState, hq.2]
  rfl

/-- Settles O24: the rows before, the writes of the row before the refused one, and the error. -/
theorem upscaleBus : Obligations.UpscaleBus := by
  refine ⟨fun s X Y hq hm hv hle hdev hX hY href hgo => ?_, fun s hq hm => ?_, ?_⟩
  · obtain ⟨m, hrun, hstored⟩ := exec_upscale_bus hq hm hv hle hdev hX hY href hgo
    exact ⟨m, hrun, fun x y k hx hlt hk => hstored.read hx hlt hk, fun a ha => hstored.outside a ha⟩
  · exact ⟨dumpBus_byte (buf := fun b => b.ibuf) (valid := fun v => v.ibuf) rfl rfl hq hm,
      dumpBus_byte (buf := fun b => b.tbuf) (valid := fun v => v.tbuf) rfl rfl hq hm,
      dumpBus_byte (buf := fun b => b.mbuf) (valid := fun v => v.mbuf) rfl rfl hq hm,
      dumpBus_byte (buf := fun b => b.dbuf) (valid := fun v => v.dbuf) rfl rfl hq hm,
      exec_dump_bus (w := 0x49) (valid := fun v => v.cbuf) (elem := fun s x y => rgbBytes (cpx s.bufs.cbuf x y)) rfl rfl
        hq hm (helem := fun _ _ _ _ => rfl)⟩
  · intro s w row X Y hq hp hm ht hle hX hY first href hgo
    obtain ⟨m, hrun, hstored⟩ := exec_frameTail_bus hq hp hm ht hle hX hY href hgo
    exact ⟨m, hrun, fun x y k hx hlt hk => hstored.read hx hlt hk, fun a ha => hstored.outside a ha⟩

end Sys2Proof.Machine
end

section
/-! PROOFS. Commands in a world: from acceptance to the stage, and through a stage up to the boundary at which a pending
word abandons the command (40_commands.md R168). -/

namespace Sys2Proof.Machine

/-! ### Worlds that bring a word -/

/-- The word `w` lands at one point, or is pending already. -/
def Brings (w : Word) (σ : World) : Prop := (∃ m c, σ = World.bringing m w c) ∨ σ = World.still w true

theorem Brings.after {w : Word} {σ : World} (h : Brings w σ) (n : Nat) : Brings w (σ.after n) := by
  rcases h with ⟨m, c, rfl⟩ | rfl
  · by_cases hn : n ≤ m
    · exact .inl ⟨m - n, c, World.after_of_le hn⟩
    · exact .inr (World.after_bringing w c (by omega))
  · exact .inr (World.after_still _ _ _)

theorem Brings.lets {w : Word} {σ : World} (h : Brings w σ) (n : Nat) : σ.Lets false n := by
  rcases h with ⟨m, c, rfl⟩ | rfl
  · exact World.lets_bringing m w c n
  · exact World.lets_still _ _ _ n

theorem Brings.eq_still {w : Word} {σ : World} (h : Brings w σ) (hp : σ.pending = true) : σ = World.still w true := by
  rcases h with ⟨m, c, rfl⟩ | rfl
  · cases hp
  · rfl

/-! ### Actions that go on until a word is pending -/

/-- `F` goes on from a state with `P` to one with `Q` and takes `n` points, where no word is pending after them. -/
def Runs (r : Bool) (n : Nat) (F : State → Flow) (P Q : State → Prop) : Prop :=
  ∀ s σ, s.inReset = r → P s → σ.Lets r n → (σ.after n).pending = false →
    ∃ t, t.inReset = r ∧ Q t ∧ F (inWorld σ s) = .on (inWorld (σ.after n) t)

/-- `F` is abandoned, in a state with `M`, for a word that is pending after `n` points. -/
def Stops (n : Nat) (F : State → Flow) (P M : State → Prop) : Prop :=
  ∀ w s σ, s.inReset = false → P s → Brings w σ → (σ.after n).pending = true →
    ∃ t, M t ∧ F (inWorld σ s) = .ended (.next (abandoned (inWorld (World.still w true) t)))

theorem Takes.runs {r : Bool} {n : Nat} {F : State → Flow} {P Q : State → Prop} (h : Takes r n F P Q) :
    Runs r n F P Q := fun s σ hs hp hl _ => h s σ hs hp hl

theorem Runs.andThen {r : Bool} {n m : Nat} {F G : State → Flow} {P Q R : State → Prop} (hF : Runs r n F P Q)
    (hG : Runs r m G Q R) : Runs r (n + m) (fun s => (F s).andThen G) P R := by
  intro s σ hs hp hl hpend
  obtain ⟨t, ht, hq, hFt⟩ := hF s σ hs hp (hl.mono (Nat.le_add_right n m))
    (World.pending_mono (Nat.le_add_right n m) hpend)
  rw [← World.after_after hl] at hpend ⊢
  obtain ⟨u, hu, hR, hGu⟩ := hG t (σ.after n) ht hq hl.after hpend
  exact ⟨u, hu, hR, by dsimp only; rw [hFt, andThen_on, hGu]⟩

theorem Runs.comp {r : Bool} {n : Nat} {F : State → Flow} {P Q R : State → Prop} (hF : Runs r n F Q R)
    {f : State → State} (hf : ∀ s σ, f (inWorld σ s) = inWorld σ (f s)) (hr : ∀ s, (f s).inReset = s.inReset)
    (h : ∀ s, P s → Q (f s)) : Runs r n (fun s => F (f s)) P R := by
  intro s σ hs hp hl hpend
  obtain ⟨t, ht, hR, hFt⟩ := hF (f s) σ ((hr s).trans hs) (h s hp) hl hpend
  exact ⟨t, ht, hR, by dsimp only; rw [hf, hFt]⟩

theorem Stops.comp {n : Nat} {F : State → Flow} {P Q M : State → Prop} (hF : Stops n F Q M)
    {f : State → State} (hf : ∀ s σ, f (inWorld σ s) = inWorld σ (f s)) (hr : ∀ s, (f s).inReset = s.inReset)
    (h : ∀ s, P s → Q (f s)) : Stops n (fun s => F (f s)) P M := by
  intro w s σ hs hp hb hpend
  obtain ⟨t, hM, hFt⟩ := hF w (f s) σ ((hr s).trans hs) (h s hp) hb hpend
  exact ⟨t, hM, by dsimp only; rw [hf, hFt]⟩

theorem Stops.mono {n : Nat} {F : State → Flow} {P M M' : State → Prop} (hF : Stops n F P M) (h : ∀ s, M s → M' s) :
    Stops n F P M' := fun w s σ hs hp hb hpend =>
  let ⟨t, hM, hFt⟩ := hF w s σ hs hp hb hpend
  ⟨t, h t hM, hFt⟩

/-- What comes after an action does not run when it is abandoned. -/
theorem Stops.andThen {n : Nat} {F : State → Flow} {P M : State → Prop} (hF : Stops n F P M) (G : State → Flow) :
    Stops n (fun s => (F s).andThen G) P M := fun w s σ hs hp hb hpend =>
  let ⟨t, hM, hFt⟩ := hF w s σ hs hp hb hpend
  ⟨t, hM, by dsimp only; rw [hFt, andThen_ended]⟩

/-- After an action at whose points no boundary comes. -/
theorem Takes.andThen_stops {n m : Nat} {F G : State → Flow} {P Q M : State → Prop} (hF : Takes false n F P Q)
    (hG : Stops m G Q M) : Stops (n + m) (fun s => (F s).andThen G) P M := by
  intro w s σ hs hp hb hpend
  obtain ⟨t, ht, hq, hFt⟩ := hF s σ hs hp (hb.lets n)
  rw [← World.after_after (hb.lets (n + m))] at hpend
  obtain ⟨u, hM, hGu⟩ := hG w t (σ.after n) ht hq (hb.after n) hpend
  exact ⟨u, hM, by dsimp only; rw [hFt, andThen_on, hGu]⟩

/-- One abandonable action after another: the word abandons the one at whose boundaries it is pending first. -/
theorem Stops.andThen_stops {n m : Nat} {F G : State → Flow} {P Q M : State → Prop} (hF : Stops n F P M)
    (hrun : Runs false n F P Q) (hG : Stops m G Q M) : Stops (n + m) (fun s => (F s).andThen G) P M := by
  intro w s σ hs hp hb hpend
  by_cases hn : (σ.after n).pending = true
  · exact hF.andThen G w s σ hs hp hb hn
  · obtain ⟨t, ht, hq, hFt⟩ := hrun s σ hs hp (hb.lets n) (Bool.not_eq_true _ ▸ hn)
    rw [← World.after_after (hb.lets (n + m))] at hpend
    obtain ⟨u, hM, hGu⟩ := hG w t (σ.after n) ht hq (hb.after n) hpend
    exact ⟨u, hM, by dsimp only; rw [hFt, andThen_on, hGu]⟩

/-! ### A stage and the boundary after it -/

theorem runs_betweenStages {r : Bool} {P : State → Prop} (hb : ∀ s, P s → busy s = true) :
    Runs r 1 betweenStages P P := by
  intro s σ hs hp hl hpend
  refine ⟨s, hs, hp, ?_⟩
  rw [betweenStages, land_inWorld [] (hb s hp) (by rwa [hs]), andThen_on, boundary_inWorld hpend]

theorem stops_betweenStages {P : State → Prop} (hb : ∀ s, P s → busy s = true) : Stops 1 betweenStages P P := by
  intro w s σ hs hp hbr hpend
  refine ⟨s, hp, ?_⟩
  rw [betweenStages, land_inWorld [] (hb s hp) (by rw [hs]; exact hbr.lets 1), andThen_on,
    (hbr.after 1).eq_still hpend, boundary, if_pos (by rfl), abandon_quiet _ rfl]

/-- The points of a stage of `n` rows with `p` points each. -/
def stagePoints (n p : Nat) : Nat := if n = 0 then 1 else n * p

section
variable {r : Bool} {p n : Nat} {P : Nat → State → Prop} {stage : Stage} {writes : Nat → State → List PortWrite}
  {body : Nat → State → Flow}

/-- All rows of a stage, where no word is pending before the last of them. -/
theorem rowLoop_reaches {σ : World} {s : State} (hb : ∀ s, P 0 s → busy s = true)
    (hrow : ∀ y, y < n → Takes r p (rowStep stage writes body y) (P y) (P (y + 1))) (hs : s.inReset = r) (hP : P 0 s)
    (hl : σ.Lets r (stagePoints n p)) (h : n ≤ 1 ∨ (σ.after ((n - 1) * p)).pending = false) :
    ∃ t, t.inReset = r ∧ P n t
      ∧ rowLoop stage writes body (List.range n) (inWorld σ s) = .on (inWorld (σ.after (stagePoints n p)) t) := by
  cases n with
  | zero => exact ⟨s, hs, hP, rowLoop_nil_goes hs (hb s hP) hl⟩
  | succ n => exact rowLoop_goes hrow hs hP hl (h.imp_left (by omega))

theorem runs_rowLoop (hb : ∀ s, P 0 s → busy s = true)
    (hrow : ∀ y, y < n → Takes r p (rowStep stage writes body y) (P y) (P (y + 1))) :
    Runs r (stagePoints n p) (rowLoop stage writes body (List.range n)) (P 0) (P n) := by
  intro s σ hs hp hl hpend
  refine rowLoop_reaches hb hrow hs hp hl ?_
  cases n with
  | zero => exact .inl (Nat.zero_le 1)
  | succ n => exact .inr (World.pending_mono (Nat.mul_le_mul_right p (Nat.le_succ n)) hpend)

/-- A word that is pending after `n` rows was pending first after one of them. -/
theorem exists_first_pending {σ : World} (h0 : 0 < n) (hpend : (σ.after (n * p)).pending = true) :
    ∃ Y, Y < n ∧ (Y = 0 ∨ (σ.after (Y * p)).pending = false) ∧ (σ.after ((Y + 1) * p)).pending = true := by
  induction n with
  | zero => exact absurd h0 (Nat.lt_irrefl 0)
  | succ n ih =>
    by_cases hn : n = 0 ∨ (σ.after (n * p)).pending = false
    · exact ⟨n, Nat.lt_succ_self n, hn, hpend⟩
    · rw [not_or, Bool.not_eq_false] at hn
      obtain ⟨Y, hY, hfirst, hlast⟩ := ih (Nat.pos_of_ne_zero hn.1) hn.2
      exact ⟨Y, by omega, hfirst, hlast⟩

/-- A stage and the boundary after it, for a word that is pending there: it abandons the command at the first boundary
at which it is pending. -/
theorem stops_rows_between {post : State → State} {M : State → Prop} (hb : ∀ k s, P k s → busy s = true)
    (hrow : ∀ y, y < n → Takes false p (rowStep stage writes body y) (P y) (P (y + 1)))
    (hpost : Takes false 0 (fun s => .on (post s)) (P n) M) (hbM : ∀ s, M s → busy s = true) (hM : ∀ k s, P k s → M s) :
    Stops (stagePoints n p + 1) (fun s => ((rowLoop stage writes body (List.range n) s).andThen
      fun s => .on (post s)).andThen betweenStages) (P 0) M := by
  intro w s σ hs hp hbr hpend
  by_cases h : n ≤ 1 ∨ (σ.after ((n - 1) * p)).pending = false
  · obtain ⟨t, ht, hPt, hgo⟩ := rowLoop_reaches (hb 0) hrow hs hp (hbr.lets _) h
    rw [← World.after_after (hbr.lets _)] at hpend
    obtain ⟨u, hu, hMu, hpostu⟩ := hpost t (σ.after (stagePoints n p)) ht hPt ((hbr.after _).lets 0)
    rw [World.after_zero] at hpostu
    obtain ⟨v, hv, hstop⟩ := stops_betweenStages hbM w u _ hu hMu (hbr.after (stagePoints n p)) hpend
    exact ⟨v, hv, by dsimp only at hpostu ⊢; rw [hgo, andThen_on, hpostu, andThen_on, hstop]⟩
  · rw [not_or, Nat.not_le, Bool.not_eq_false] at h
    obtain ⟨Y, hY, hfirst, hlast⟩ := exists_first_pending (by omega) h.2
    obtain ⟨t, hPt, hstop⟩ := rowLoop_abandons (n := n) Y (by omega) (fun y hy => hrow y (by omega)) hs hp (hbr.lets _)
      hfirst ((hbr.after _).eq_still hlast)
    exact ⟨t, hM _ t hPt, by dsimp only; rw [hstop, andThen_ended, andThen_ended]⟩

end

/-! ### Acceptance in a world -/

theorem accept_inWorld (w : Word) (σ : World) (s : State) : accept w (inWorld σ s) = inWorld σ (accept w s) := rfl

/-- A command whose checks pass, from acceptance: its landing point, then its body. -/
theorem runCommand_inWorld {w : Word} {checks : State → List Check} {regions : State → List Region}
    {body : State → Flow} {s : State} {σ : World} (hl : σ.Lets s.inReset 1)
    (hck : ∀ σ t, checks (inWorld σ t) = checks t) (hrg : ∀ σ t, regions (inWorld σ t) = regions t)
    (hc : firstFail (checks (accept w s)) = none)
    (hr : (regions (accept w s)).any (meetsDevice (accept w s)) = false) :
    runCommand w checks regions body (inWorld σ s) = (body (inWorld (σ.after 1) (accept w s))).out := by
  rw [runCommand, accept_inWorld, land_inWorld [] (s := accept w s) rfl hl, andThen_on, hck, hc, hrg]
  dsimp only
  rw [show (regions (accept w s)).any (meetsDevice (inWorld (σ.after 1) (accept w s))) = false from hr]
  rfl

/-- What abandonment leaves of the command's own state. -/
theorem abandonedFor_abandoned {w : Word} {st : Status} {t : State}
    (h : { t.status with pending := false } = { st with pending := false }) :
    AbandonedFor w st (abandoned (inWorld (World.still w true) t)) where
  phase := rfl
  valid := rfl
  status := congrArg (fun x : Status => { x with preempt := true }) h
  diff := rfl
  script := rfl

end Sys2Proof.Machine
end

section
/-! PROOFS. The stages that fill a working buffer, in every world: TONEMAP, DEPTH and PALETTE each add one row of its
buffer for every row of the buffer they read (42_tone_curve_lut.md R225, 46_depth_shadow.md R340, 47_palette_interp.md
R350). -/

namespace Sys2Proof.Machine

/-- The running word `w` is at some row of some stage; apart from that the state is the one `f` gives. -/
def At (f : Phase → State) (w : Word) (t : State) : Prop := ∃ stage row, t = f (.run w stage row)

/-- The first `n` rows of a buffer are there: `set` puts the buffer into the state. -/
def FilledTo {α : Type} (set : List (List α) → Phase → State) (row : Nat → List α) (w : Word) (n : Nat) :
    State → Prop :=
  At (set ((List.range n).map row)) w

/-- What a stage's row does to a state that `set` gives. -/
structure FillsRow {α : Type} (set : List (List α) → Phase → State) (row : Nat → List α) (r : Bool)
    (rowf : Nat → State → State) : Prop where
  phase : ∀ b w st row, (set b (.run w st row)).phase = .run w st row
  reset : ∀ b p, (set b p).inReset = r
  atRow : ∀ b w st row stage y, Machine.atRow stage y (set b (.run w st row)) = set b (.run w stage y)
  fills : ∀ y b p σ, rowf y (inWorld σ (set b p)) = inWorld σ (set (b ++ [row y]) p)

section
variable {α : Type} {set : List (List α) → Phase → State} {row : Nat → List α} {r : Bool} {rowf : Nat → State → State}
  {w : Word} {n : Nat} {stage : Stage}

theorem FillsRow.busy (F : FillsRow set row r rowf) {t : State} (h : FilledTo set row w n t) : busy t = true := by
  obtain ⟨st, y, rfl⟩ := h
  rw [Machine.busy, F.phase]
  rfl

theorem FillsRow.takes (F : FillsRow set row r rowf) (y : Nat) :
    Takes r 2 (rowStep stage noWrites (fun y s => .on (rowf y s)) y) (FilledTo set row w y)
      (FilledTo set row w (y + 1)) := by
  refine takes_pureRow (Q := FilledTo set row w y) ?_ (fun _ h => F.busy h) (fun _ h => F.busy h) ?_
  · rintro t ⟨st, y', rfl⟩
    exact ⟨stage, y, F.atRow _ w st y' stage y⟩
  · rintro t σ ht ⟨st, y', rfl⟩ -
    refine ⟨set ((List.range (y + 1)).map row) (.run w st y'), F.reset _ _, ⟨st, y', rfl⟩, ?_⟩
    dsimp only
    rw [F.fills, World.after_zero, List.range_succ, List.map_append, List.map_singleton]

end

/-! ### The three stages, one after another -/

section
variable {r : Bool} {w : Word}

/-- A state inside the DEPTH stage. -/
def depthState (s : State) (b : List (List Byte)) (p : Phase) : State :=
  { startDepth s with bufs := { s.bufs with dbuf := b }, phase := p }

/-- Row y of DBUF, from MBUF. -/
def depthLine (s : State) (y : Nat) : List Byte :=
  rowOf (fun p => depthPixel s.snap.depth.toNat (workW s) s.bufs.mbuf p y) (workW s)

theorem fillsRow_depth (s : State) : FillsRow (depthState s) (depthLine s) s.inReset depthRow where
  phase _ _ _ _ := rfl
  reset _ _ := rfl
  atRow _ _ _ _ _ _ := rfl
  fills _ _ _ _ := rfl

/-- A state inside the PALETTE stage. -/
def paletteState (s : State) (b : List (List Rgb)) (p : Phase) : State :=
  { startPalette s with bufs := { s.bufs with cbuf := b }, phase := p }

/-- Row y of CBUF, from DBUF. -/
def paletteLine (s : State) (y : Nat) : List Rgb :=
  rowOf (fun x => palMap s.snap.pal (palN s) (px s.bufs.dbuf x y)) (workW s)

theorem fillsRow_palette (s : State) : FillsRow (paletteState s) (paletteLine s) s.inReset paletteRow where
  phase _ _ _ _ := rfl
  reset _ _ := rfl
  atRow _ _ _ _ _ _ := rfl
  fills _ _ _ _ := rfl

/-- A state inside the TONEMAP stage. -/
def tonemapState (s : State) (b : List (List Byte)) (p : Phase) : State :=
  { startTonemap s with bufs := { s.bufs with tbuf := b }, phase := p }

/-- Row y of TBUF, from IBUF. -/
def tonemapLine (s : State) (y : Nat) : List Byte :=
  rowOf (fun x => lutGet s.lut.ram (px s.bufs.ibuf x y)) (workW s)

theorem fillsRow_tonemap (s : State) : FillsRow (tonemapState s) (tonemapLine s) s.inReset tonemapRow where
  phase _ _ _ _ := rfl
  reset _ _ := rfl
  atRow _ _ _ _ _ _ := rfl
  fills _ _ _ _ := rfl

/-- `s` at any row of any stage of the running word. -/
abbrev atAny (s : State) (p : Phase) : State := { s with phase := p }

theorem runs_stageDepth (s : State) :
    Runs s.inReset (stagePoints (workH s) 2) stageDepth (At (atAny s) w) (At (fun p => afterDepth p s) w) := by
  rintro t σ ht ⟨st, y, rfl⟩ hl hpend
  obtain ⟨v, hv, ⟨st', y', rfl⟩, hgo⟩ := runs_rowLoop (stage := .depth) (n := workH s)
    (P := FilledTo (depthState s) (depthLine s) w) (fun _ h => (fillsRow_depth s).busy h)
    (fun y _ => (fillsRow_depth s).takes y) (startDepth (atAny s (.run w st y))) σ rfl ⟨st, y, rfl⟩ hl hpend
  refine ⟨afterDepth (.run w st' y') s, rfl, ⟨st', y', rfl⟩, ?_⟩
  rw [stageDepth, pureRows]
  exact congrArg (fun f => Flow.andThen f _) hgo

theorem runs_stagePalette (s : State) :
    Runs s.inReset (stagePoints (workH s) 2) stagePalette (At (fun p => afterDepth p s) w)
      (At (fun p => afterPalette p s) w) := by
  rintro t σ ht ⟨st, y, rfl⟩ hl hpend
  obtain ⟨v, hv, ⟨st', y', rfl⟩, hgo⟩ := runs_rowLoop (stage := .palette) (n := workH s)
    (P := FilledTo (paletteState (afterDepth .idle s)) (paletteLine (afterDepth .idle s)) w)
    (fun _ h => (fillsRow_palette (afterDepth .idle s)).busy h)
    (fun y _ => (fillsRow_palette (afterDepth .idle s)).takes y) (startPalette (afterDepth (.run w st y) s)) σ rfl
    ⟨st, y, rfl⟩ hl hpend
  refine ⟨afterPalette (.run w st' y') s, rfl, ⟨st', y', rfl⟩, ?_⟩
  rw [stagePalette, pureRows]
  exact congrArg (fun f => Flow.andThen f _) hgo

theorem at_busy {f : Phase → State} (hf : ∀ w st row, (f (.run w st row)).phase = .run w st row) {t : State}
    (h : At f w t) : busy t = true := by
  obtain ⟨st, row, rfl⟩ := h
  rw [busy, hf]
  rfl

/-- The points of the last step of RUN_FRAME before its UPSCALE stage. -/
abbrev tailPoints (s : State) : Nat := stagePoints (workH s) 2 + 1 + stagePoints (workH s) 2 + 1

/-- RUN_FRAME from the end of its dither stage to its UPSCALE stage. -/
abbrev stagesToUpscale (s : State) : Flow :=
  (((stageDepth s).andThen betweenStages).andThen stagePalette).andThen betweenStages

theorem runs_stagesToUpscale (s : State) :
    Runs s.inReset (tailPoints s) stagesToUpscale (At (atAny s) w) (At (fun p => afterPalette p s) w) :=
  (((runs_stageDepth s).andThen (runs_betweenStages fun _ => at_busy fun _ _ _ => rfl)).andThen
    (runs_stagePalette s)).andThen (runs_betweenStages fun _ => at_busy fun _ _ _ => rfl)

end

end Sys2Proof.Machine
end

section
/-! PROOFS. Reset in a row of writes (70_reset_and_hazards.md R442, 20_memory.md R101): the first of its writes are
performed and the next one torn. -/

namespace Sys2Proof.Machine

/-! ### Memory after a torn row -/

/-- `m'` is `m` after the rows before row Y, the first `J` writes of row Y and those bytes of write `J` that `torn`
names. -/
structure RowTorn (base count u : Nat) (b : Nat → Nat → Nat → Byte) (Y J : Nat) (torn : BitVec 4) (m m' : Memory) :
    Prop where
  inside : ∀ X y k, X < count → k < u →
    m'.read (base + u * (y * count + X) + k) = if y < Y ∨ y = Y ∧ (X < J ∨ X = J ∧ torn.getLsbD k = true) then b X y k
      else m.read (base + u * (y * count + X) + k)
  outside : ∀ a, a < base ∨ base + u * ((Y + 1) * count) ≤ a → m'.read a = m.read a

section
variable {base count u : Nat} {b : Nat → Nat → Nat → Byte} {Y J N : Nat} {torn : BitVec 4} {m m' : Memory}

/-- A place of the destination is not among its first `N` writes. -/
theorem Stored.read_later (h : Stored base count u b N m m') {i k : Nat} (hi : N ≤ i) :
    m'.read (base + u * i + k) = m.read (base + u * i + k) :=
  h.outside _ (.inr (by have := Nat.mul_le_mul_left u hi; omega))

/-- A place in raster order is among the first `Y * count + j` where its row is earlier or its column is. -/
theorem place_lt_iff {X y j : Nat} (hX : X < count) (hj : j ≤ count) :
    y * count + X < Y * count + j ↔ y < Y ∨ y = Y ∧ X < j := by
  rcases Nat.lt_trichotomy y Y with h | rfl | h
  · have hle : (y + 1) * count ≤ Y * count := Nat.mul_le_mul_right count h
    rw [Nat.succ_mul] at hle
    simp only [h, true_or, iff_true]
    omega
  · simp
  · have hle : (Y + 1) * count ≤ y * count := Nat.mul_le_mul_right count h
    rw [Nat.succ_mul] at hle
    simp only [Nat.lt_asymm h, Nat.ne_of_gt h, false_and, or_self, iff_false]
    omega

/-- A whole row is performed: there is no write to tear. -/
theorem Stored.rowTorn_full (h : Stored base count u b (Y * count + count) m m') (hJ : count ≤ J) :
    RowTorn base count u b Y J torn m m' where
  inside X y k hX hk := by
    have hin : y * count + X < Y * count + count ↔ y < Y ∨ y = Y ∧ (X < J ∨ X = J ∧ torn.getLsbD k = true) := by
      rw [place_lt_iff hX (Nat.le_refl count)]
      have hXJ : X < J := by omega
      simp [hX, hXJ]
    split
    next hlt => exact h.read hX (hin.2 hlt) hk
    next hge => exact h.read_later (Nat.le_of_not_lt fun hlt => hge (hin.1 hlt))
  outside a ha := h.outside a (by rwa [Nat.succ_mul] at ha)

/-- Memory after the bytes of a write in flight that `torn` names, from number `i` on. -/
theorem writeTorn_mem (i a : Nat) (bs : List Byte) (s : State) (hs : s.race.touched = []) (hm : s.mem.wf = true)
    (ha : a + bs.length ≤ 4294967296) (x : Nat) :
    (writeTorn i a torn bs s).mem.read x =
      if a ≤ x ∧ x < a + bs.length ∧ torn.getLsbD (i + (x - a)) = true then bs.getD (x - a) 0 else s.mem.read x := by
  induction bs generalizing i a s with
  | nil =>
    rw [if_neg fun ⟨h1, h2, _⟩ => Nat.not_lt.2 h1 h2]
    rfl
  | cons c bs ih =>
    rw [List.length_cons] at ha ⊢
    have hhead : (if torn.getLsbD i then engineWrite a c s else s).mem.read x =
        if x = a ∧ torn.getLsbD i = true then c else s.mem.read x := by
      by_cases ht : torn.getLsbD i = true
      · rw [if_pos ht, engineWrite_quiet a c s hs]
        show (s.mem.write a c).read x = _
        rw [read_write s.mem a x c hm]
        simp [ht]
      · rw [if_neg ht, if_neg (by simp [ht])]
    have htouched : (if torn.getLsbD i then engineWrite a c s else s).race.touched = [] := by
      split
      · rw [engineWrite_quiet a c s hs]
        exact hs
      · exact hs
    have hwf : (if torn.getLsbD i then engineWrite a c s else s).mem.wf = true := by
      split
      · rw [engineWrite_quiet a c s hs]
        exact write_wf s.mem a c hm (by omega)
      · exact hm
    rw [writeTorn, ih (i + 1) (a + 1) _ htouched hwf (by omega), hhead]
    by_cases hx : x = a
    · subst hx
      simp
    · by_cases hin : a + 1 ≤ x
      · have hsub : x - a = x - (a + 1) + 1 := by omega
        rw [hsub, List.getD_cons_succ, show i + (x - (a + 1) + 1) = i + 1 + (x - (a + 1)) by omega]
        simp only [hx, false_and, if_false, show a + 1 + bs.length = a + (bs.length + 1) by omega, hin, true_and,
          show a ≤ x by omega]
      · rw [if_neg (by omega), if_neg (by simp [hx]), if_neg (by omega)]

/-- A write of row Y goes through. -/
theorem goesThrough_destWrite {s : State} {j : Nat} (hj : j < count) (hle : base + u * ((Y + 1) * count) ≤ 4294967296)
    (hgo : refuses s (base + u * (Y * count + j)) u .write = false) :
    (destWrite base count u b Y j).addr + u ≤ 4294967296 ∧ goesThrough s (destWrite base count u b Y j) = true := by
  have hmul : u * (Y * count + j + 1) ≤ u * ((Y + 1) * count) :=
    Nat.mul_le_mul_left u (by rw [Nat.succ_mul]; omega)
  rw [Nat.mul_add u _ 1] at hmul
  have hfit : (destWrite base count u b Y j).addr + u ≤ 4294967296 := by
    show base + u * (Y * count + j) + u ≤ 4294967296
    omega
  refine ⟨hfit, ?_⟩
  rw [goesThrough, length_destWrite]
  simp only [hfit, decide_true, Bool.true_and, Bool.not_eq_true']
  exact hgo

/-- Reset with write `j` of row Y in flight. -/
theorem Stored.rowTorn_write {s : State} {j : Nat} (h : Stored base count u b (Y * count + j) m s.mem)
    (hs : s.race.touched = []) (hj : j < count) (hle : base + u * ((Y + 1) * count) ≤ 4294967296)
    (hfit : (destWrite base count u b Y j).addr + u ≤ 4294967296) :
    RowTorn base count u b Y j torn m
      (writeTorn 0 (destWrite base count u b Y j).addr torn (destWrite base count u b Y j).bytes s).mem := by
  have hread := writeTorn_mem (torn := torn) 0 (destWrite base count u b Y j).addr (destWrite base count u b Y j).bytes
    s hs h.wf (by rwa [length_destWrite])
  rw [length_destWrite] at hread
  have haddr : (destWrite base count u b Y j).addr = base + u * (Y * count + j) := rfl
  rw [haddr] at hread
  have hrow : u * (Y * count + j + 1) ≤ u * ((Y + 1) * count) := Nat.mul_le_mul_left u (by rw [Nat.succ_mul]; omega)
  rw [Nat.mul_add u _ 1] at hrow
  refine ⟨fun X y k hX hk => ?_, fun a ha => ?_⟩
  · rw [haddr, hread]
    have hlater := place_lt_iff (Y := Y) (y := y) hX (Nat.le_of_lt hj)
    rcases Nat.lt_trichotomy (y * count + X) (Y * count + j) with hi | hi | hi
    · have hmul := Nat.mul_le_mul_left u hi
      rw [Nat.mul_add u _ 1] at hmul
      rw [if_neg (by omega), if_pos, h.read hX hi hk]
      rcases hlater.1 hi with hlt | ⟨heq, hlt⟩
      · exact .inl hlt
      · exact .inr ⟨heq, .inl hlt⟩
    · obtain rfl : X = j := by rw [← row_mod (y := y) hX, hi, row_mod hj]
      obtain rfl : y = Y := by rw [← row_div (y := y) hX, hi, row_div hj]
      rw [h.read_later (Nat.le_refl _)]
      have hsub : base + u * (y * count + X) + k - (base + u * (y * count + X)) = k := by omega
      simp [hsub, hk, destWrite]
    · have hmul := Nat.mul_le_mul_left u hi
      rw [Nat.mul_add u _ 1] at hmul
      rw [if_neg (by omega), h.read_later hi.le, if_neg]
      rintro (hlt | ⟨heq, hlt | ⟨heq', -⟩⟩)
      · exact Nat.lt_asymm hi (hlater.2 (.inl hlt))
      · exact Nat.lt_asymm hi (hlater.2 (.inr ⟨heq, hlt⟩))
      · subst heq heq'
        exact Nat.lt_irrefl _ hi
  · rw [haddr, hread, if_neg (by omega)]
    exact h.outside a (by omega)

/-- The writes performed when reset lands after `j` writes of row Y, with `n` more of them performed. -/
theorem writePrefix_rowTorn (n j : Nat) (hj : j ≤ count) {s : State} (hs : s.race.touched = [])
    (hle : base + u * ((Y + 1) * count) ≤ 4294967296)
    (hgo : ∀ X, X < count → refuses s (base + u * (Y * count + X)) u .write = false)
    (hst : Stored base count u b (Y * count + j) m s.mem) :
    RowTorn base count u b Y (j + n) torn m (writePrefix n torn (destRow base count u b Y j (count - j)) s).mem := by
  have hrow : (Y + 1) * count = Y * count + count := Nat.succ_mul Y count
  induction n generalizing j s with
  | zero =>
    rcases Nat.eq_or_lt_of_le hj with rfl | hlt
    · rw [Nat.sub_self]
      exact hst.rowTorn_full (Nat.le_refl _)
    · obtain ⟨hfit, hthrough⟩ := goesThrough_destWrite (b := b) hlt hle (hgo j hlt)
      obtain ⟨l, hl⟩ : ∃ l, count - j = l + 1 := ⟨count - j - 1, by omega⟩
      rw [hl, destRow_succ, writePrefix, if_pos hthrough]
      exact hst.rowTorn_write hs hlt hle hfit
  | succ n ih =>
    rcases Nat.eq_or_lt_of_le hj with rfl | hlt
    · rw [Nat.sub_self]
      exact hst.rowTorn_full (Nat.le_add_right _ _)
    · obtain ⟨hfit, hthrough⟩ := goesThrough_destWrite (b := b) hlt hle (hgo j hlt)
      obtain ⟨l, hl⟩ : ∃ l, count - j = l + 1 := ⟨count - j - 1, by omega⟩
      obtain ⟨record, hw⟩ := writeBytes_quiet (destWrite base count u b Y j).addr (destWrite base count u b Y j).bytes
        s hs
      rw [hl, destRow_succ, writePrefix, if_pos hthrough, hw, show l = count - (j + 1) by omega,
        show j + (n + 1) = j + 1 + n by omega]
      exact ih (j + 1) hlt rfl hgo (hst.write hlt (by
        refine (Nat.add_le_add_left (Nat.mul_le_mul_left u ?_) base).trans hle
        omega))

end

/-! ### A row in which reset lands -/

/-- The world in which reset lands after `j` more landing points. -/
abbrev resetWorld (j n : Nat) (torn : BitVec 4) (rest : List HostItem) (c : Word) (p : Bool) : World :=
  ⟨j, .resetOn n torn :: rest, c, p⟩

theorem resetWorld_after (k j n : Nat) (torn : BitVec 4) (rest : List HostItem) (c : Word) (p : Bool) :
    (resetWorld (k + j) n torn rest c p).after k = resetWorld j n torn rest c p := by
  rw [World.after_of_le (Nat.le_add_right k j)]
  simp

/-- The state right after reset landed with the writes `ws` still to come. -/
def resetLanded (n : Nat) (torn : BitVec 4) (rest : List HostItem) (ws : List PortWrite) (s : State) : State :=
  { blockReset (writePrefix n torn ws s) with script := rest }

theorem resetLanded_mem (n : Nat) (torn : BitVec 4) (rest : List HostItem) (ws : List PortWrite) (s : State) :
    (resetLanded n torn rest ws s).mem = (writePrefix n torn ws s).mem := rfl

theorem land_reset (n : Nat) (torn : BitVec 4) (rest : List HostItem) (c : Word) (p : Bool) (ws : List PortWrite)
    (s : State) : land ws (inWorld (resetWorld 0 n torn rest c p) s) =
      .ended (.next (resetLanded n torn rest ws (inWorld (resetWorld 0 n torn rest c p) s))) := rfl

theorem afterReset_resetLanded (n : Nat) (torn : BitVec 4) (rest : List HostItem) (ws : List PortWrite) (s : State) :
    AfterReset rest (resetLanded n torn rest ws s) :=
  ⟨rfl, rfl, rfl, rfl, rfl, rfl, rfl, rfl, rfl, rfl, rfl, rfl⟩

/-- The step ended with the block reset and the destination torn in row Y. -/
def ResetTore (rest : List HostItem) (base count u : Nat) (b : Nat → Nat → Nat → Byte) (Y J : Nat) (torn : BitVec 4)
    (m : Memory) (o : Result) : Prop :=
  ∃ t, o = .next t ∧ AfterReset rest t ∧ RowTorn base count u b Y J torn m t.mem

section
variable {s : State} {w : Word} {base count u : Nat} {b : Nat → Nat → Nat → Byte} {n : Nat} {torn : BitVec 4}
  {rest : List HostItem} {c : Word} {p : Bool} {Y : Nat}

/-- Reset lands after `k` writes of row Y. -/
theorem land_reset_tore {k : Nat} (hk : k ≤ count) (hle : base + u * ((Y + 1) * count) ≤ 4294967296)
    (hgo : ∀ X, X < count → refuses s (base + u * (Y * count + X)) u .write = false) {t : State}
    (hP : Storing s w base count u b (Y * count + k) t) :
    ∃ o, ResetTore rest base count u b Y (k + n) torn s.mem o
      ∧ land (destRow base count u b Y k (count - k)) (inWorld (resetWorld 0 n torn rest c p) t) = .ended o := by
  refine ⟨_, ⟨_, rfl, afterReset_resetLanded n torn rest _ _, ?_⟩, land_reset n torn rest c p _ t⟩
  obtain ⟨m, record, st, row, hm, rfl⟩ := hP
  exact writePrefix_rowTorn n k hk rfl hle hgo hm

theorem rowStep_reset {stage : Stage} {writes : Nat → State → List PortWrite} {j : Nat}
    (hw : WritesDest s base count u b writes) (hj : j ≤ count + 1) (hle : base + u * ((Y + 1) * count) ≤ 4294967296)
    (hgo : ∀ X, X < count → refuses s (base + u * (Y * count + X)) u .write = false) {t : State}
    (hP : Storing s w base count u b (Y * count) t) :
    ∃ o, ResetTore rest base count u b Y (j + n) torn s.mem o
      ∧ rowStep stage writes (fun y s => performWrites (writes y s) s) Y (inWorld (resetWorld j n torn rest c p) t)
        = .ended o := by
  have hP0 : Storing s w base count u b (Y * count + 0) (atRow stage Y t) := hP.atRow stage Y
  have hwrites (σ : World) : writes Y (inWorld σ (atRow stage Y t)) = destRow base count u b Y 0 count := by
    obtain ⟨m, record, st, row, -, hP⟩ := hP0
    rw [hP, hw]
  have hbound : base + u * (Y * count + count) ≤ 4294967296 := by rwa [Nat.succ_mul] at hle
  rw [rowStep, show atRow stage Y (inWorld (resetWorld j n torn rest c p) t) =
    inWorld (resetWorld j n torn rest c p) (atRow stage Y t) from rfl, hwrites]
  rcases Nat.eq_zero_or_pos j with rfl | hpos
  · obtain ⟨o, ho, hland⟩ := land_reset_tore (n := n) (torn := torn) (rest := rest) (c := c) (p := p)
      (Nat.zero_le count) hle hgo hP0
    rw [Nat.sub_zero] at hland
    exact ⟨o, ho, by rw [hland, andThen_ended, andThen_ended]⟩
  · obtain ⟨k, rfl⟩ : ∃ k, j = k + 1 := ⟨j - 1, by omega⟩
    have hpass : land (destRow base count u b Y 0 count)
        (inWorld (resetWorld (k + 1) n torn rest c p) (atRow stage Y t)) =
          .on (inWorld (resetWorld k n torn rest c p) (atRow stage Y t)) :=
      land_of_pass _ _ (List.replicate k .pass ++ .resetOn n torn :: rest) rfl
    obtain ⟨v, -, hPv, hskip⟩ := performWrites_skip (r := t.inReset) (σ := resetWorld k n torn rest c p) k count 0
      (by omega) (by omega) hbound (fun X _ h => hgo X (by omega)) (t := atRow stage Y t) rfl hP0 (.inl (Nat.le_refl k))
    rw [World.after_of_le (Nat.le_refl k), Nat.sub_self, Nat.zero_add] at hskip
    rw [Nat.add_zero] at hPv
    rw [hpass, andThen_on, hwrites, hskip]
    rcases Nat.eq_or_lt_of_le (Nat.le_of_succ_le_succ hj) with rfl | hlt
    · obtain ⟨m, record, st, row, hm, rfl⟩ := hPv
      refine ⟨_, ⟨_, rfl, afterReset_resetLanded n torn rest []
        (inWorld (resetWorld 0 n torn rest c p) (writeState s m record (.run w st row))), ?_⟩, ?_⟩
      · rw [resetLanded_mem, writePrefix]
        exact hm.rowTorn_full (by omega)
      rw [Nat.sub_self]
      exact land_reset n torn rest c p [] _
    · obtain ⟨v', hPv', hstep⟩ := performWrites_storing (destRow base count u b Y (k + 1) (count - (k + 1)))
        (resetWorld 0 n torn rest c p) hlt
        ((Nat.add_le_add_left (Nat.mul_le_mul_left u (by omega)) base).trans hbound) (hgo k hlt) hPv
      obtain ⟨o, ho, hland⟩ := land_reset_tore (n := n) (torn := torn) (rest := rest) (c := c) (p := p) hlt hle hgo hPv'
      obtain ⟨l, hl⟩ : ∃ l, count - k = l + 1 := ⟨count - k - 1, by omega⟩
      refine ⟨o, ho, ?_⟩
      rw [hl, destRow_succ, show l = count - (k + 1) by omega, hstep, hland, andThen_ended, andThen_ended]

/-- A stage that writes a destination, with reset after `j` points of row Y. -/
theorem writingRows_reset {stage : Stage} {writes : Nat → State → List PortWrite} {height j : Nat} (hY : Y < height)
    (hs : Storing s w base count u b 0 s) (hw : WritesDest s base count u b writes) (hj : j ≤ count + 1)
    (hpend : p = true → Y = 0) (hgo : WritesGo s base (height * count) u) :
    ∃ o, ResetTore rest base count u b Y (j + n) torn s.mem o
      ∧ writingRows stage height writes (inWorld (resetWorld (Y * (count + 2) + j) n torn rest c p) s) = .ended o := by
  obtain ⟨hle, hgo⟩ := hgo
  have hafter : (resetWorld (Y * (count + 2) + j) n torn rest c p).after (Y * (count + 2)) =
      resetWorld j n torn rest c p := resetWorld_after _ j n torn rest c p
  exact rowLoop_ends (P := fun y => Storing s w base count u b (y * count)) (stage := stage) (n := height) Y hY
    (fun y hy => takes_writingRow (r := s.inReset) hw (row_le (hy.trans hY) hle) fun X hX =>
      hgo _ (place_lt (hy.trans hY) hX))
    rfl (by simpa using hs) (.inl (Nat.le_add_right _ _))
    (by
      rw [hafter]
      cases p with
      | false => exact .inr rfl
      | true => exact .inl (hpend rfl))
    (fun t _ hP => by
      rw [hafter]
      exact rowStep_reset hw hj (row_le hY hle) (fun X hX => hgo _ (place_lt hY hX)) hP)

end

/-! ### The commands -/

/-- The script of a reset after `k` landing points, as a world. -/
theorem eq_inWorld_reset {s : State} {k n : Nat} {torn : BitVec 4} {rest : List HostItem}
    (h : s.script = List.replicate k .pass ++ .resetOn n torn :: rest) :
    inWorld (resetWorld k n torn rest s.pendCmd s.status.pending) s = s := inWorld_eq_self h rfl rfl

theorem resetInRow_of_tore {i : Instr} {s : State} {head base count height u : Nat} {b : Nat → Nat → Nat → Byte}
    (h : ∀ (Y j n : Nat) (torn : BitVec 4) (rest : List HostItem), Y < height → j ≤ count + 1 →
      (s.status.pending = true → Y = 0) →
      s.script = List.replicate (head + Y * (count + 2) + j) .pass ++ .resetOn n torn :: rest →
      ResetTore rest base count u b Y (j + n) torn s.mem (exec i s)) :
    ResetInRow i s head base count height u b := by
  intro Y j n torn rest hY hj hpend hscript
  obtain ⟨t, hrun, hreset, htorn⟩ := h Y j n torn rest hY hj hpend hscript
  refine ⟨t, hrun, hreset, fun X y k hX _ hk => htorn.inside X y k hX hk, fun a ha => htorn.outside a (ha.imp_right ?_)⟩
  exact (Nat.add_le_add_left (Nat.mul_le_mul_left u (Nat.mul_le_mul_right count hY)) base).trans

theorem runCommand_reset {i : Instr} {w : Word} {checks : State → List Check} {regions : State → List Region}
    {stage : Stage} {height : State → Nat} {writes : Nat → State → List PortWrite} {s : State} {base count u : Nat}
    {b : Nat → Nat → Nat → Byte}
    (hexec : exec i s = runCommand w checks regions (fun s => thenComplete (writingRows stage (height s) writes s)) s)
    (hm : s.mem.wf = true) (hck : ∀ σ t, checks (inWorld σ t) = checks t)
    (hrg : ∀ σ t, regions (inWorld σ t) = regions t) (hh : ∀ σ t, height (inWorld σ t) = height t)
    (hc : firstFail (checks (accept w s)) = none) (hr : (regions (accept w s)).any (meetsDevice (accept w s)) = false)
    (hw : WritesDest (accept w s) base count u b writes) (hgo : WritesGo s base (height (accept w s) * count) u) :
    ResetInRow i s 1 base count (height (accept w s)) u b := by
  refine resetInRow_of_tore fun Y j n torn rest hY hj hpend hscript => ?_
  have hself := eq_inWorld_reset hscript
  obtain ⟨o, ho, hrun⟩ := writingRows_reset (s := accept w s) (w := w) (stage := stage) (n := n) (torn := torn)
    (rest := rest) (c := s.pendCmd) (p := s.status.pending) hY (storing_zero rfl hm rfl) hw hj hpend hgo
  have hone : (resetWorld (1 + Y * (count + 2) + j) n torn rest s.pendCmd s.status.pending).after 1 =
      resetWorld (Y * (count + 2) + j) n torn rest s.pendCmd s.status.pending := by
    rw [Nat.add_assoc]
    exact resetWorld_after 1 _ n torn rest _ _
  have hcmd := runCommand_inWorld (body := fun s => thenComplete (writingRows stage (height s) writes s))
    (σ := resetWorld (1 + Y * (count + 2) + j) n torn rest s.pendCmd s.status.pending) 
    (.inl (show 1 ≤ 1 + Y * (count + 2) + j by omega)) hck hrg hc hr
  rw [hself, hone, hh, hrun] at hcmd
  rwa [hexec, hcmd]

theorem resetInRow_upscale {s : State} (hm : s.mem.wf = true) (hv : s.valid.cbuf = true)
    (hd : DestinationTakes s (dimLo s.dims.src * dimHi s.dims.src) 4) :
    ResetInRow .upscale s 1 s.cfg.dstBase.toNat (dimLo s.dims.src) (dimHi s.dims.src) 4
      (outByte s.bufs.cbuf (workW s) (workH s) s.dims.scale.toNat) := by
  obtain ⟨hgo, hdev⟩ := hd
  rw [← Nat.mul_assoc] at hdev
  have hsize := hgo.1
  rw [← Nat.mul_assoc] at hsize
  rw [Nat.mul_comm (dimLo s.dims.src)] at hgo
  exact runCommand_reset (i := .upscale) (w := 0x08) (stage := .upscale) (height := latH) rfl hm (fun _ _ => rfl)
    (fun _ _ => rfl) (fun _ _ => rfl) (firstFail_dest hv hsize) ((Bool.or_false _).trans hdev)
    (upscaleWrites_dest (accept 0x08 s)) hgo

theorem dumpResets_of_elem {i : Instr} {w : Word} {valid : Valid → Bool} {e : Nat}
    {elem : State → Nat → Nat → List Byte} {s : State} (hexec : exec i s = runDump w valid e elem s)
    (hm : s.mem.wf = true) (hv : valid s.valid = true) (hvw : ∀ σ t, valid (inWorld σ t).valid = valid t.valid)
    (helem : ∀ σ m record p, elem (inWorld σ (writeState (accept w s) m record p)) = elem (accept w s)) :
    DumpResets i e (fun x y k => (elem (accept w s) x y).getD k 0) s := by
  intro hd
  obtain ⟨hgo, hdev⟩ := hd
  rw [Nat.one_mul] at hdev
  have hsize := hgo.1
  rw [Nat.one_mul] at hsize
  rw [Nat.mul_comm (e * workW s)] at hgo
  exact runCommand_reset (w := w) (stage := .dump) (height := workH) hexec hm (fun σ t => by rw [hvw]; rfl)
    (fun _ _ => rfl) (fun _ _ => rfl) (firstFail_dest hv hsize) ((Bool.or_false _).trans hdev) (dumpWrites_dest helem)
    hgo

theorem dumpResets_byte {i : Instr} {w : Word} {valid : Valid → Bool} {buf : Bufs → List (List Byte)} {s : State}
    (hexec : exec i s = runDump w valid 1 (fun s x y => [px (buf s.bufs) x y]) s) (hm : s.mem.wf = true)
    (hv : valid s.valid = true) : DumpResets i 1 (fun x y _ => px (buf s.bufs) x y) s := by
  have h : DumpResets i 1 (fun x y k => [px (buf s.bufs) x y].getD k 0) s :=
    dumpResets_of_elem hexec hm hv (fun _ _ => rfl) (fun _ _ _ _ => rfl)
  simpa only [DumpResets, Nat.mod_one, List.getD_cons_zero] using h

/-- The last step of RUN_FRAME, from its two stages to its rows of writes. -/
theorem resetInRow_frameTail {s : State} {c : Word} {row : Nat} (hp : s.phase = .run c .depth row)
    (hpend : s.status.pending = false) (hm : s.mem.wf = true) (ht : s.race.touched = [])
    (hgo : WritesGo s s.snap.dstBase.toNat (dimLo s.dims.src * dimHi s.dims.src) 4) :
    ResetInRow .runFrame s (tailPoints s) s.snap.dstBase.toNat (dimLo s.dims.src) (dimHi s.dims.src) 4
      (outByte (tailCbuf s) (workW s) (workH s) s.dims.scale.toNat) := by
  refine resetInRow_of_tore fun Y j n torn rest hY hj _ hscript => ?_
  have hself := eq_inWorld_reset hscript
  rw [hpend] at hself
  have hafter : (resetWorld (tailPoints s + Y * (dimLo s.dims.src + 2) + j) n torn rest s.pendCmd false).after
      (tailPoints s) = resetWorld (Y * (dimLo s.dims.src + 2) + j) n torn rest s.pendCmd false := by
    rw [Nat.add_assoc]
    exact resetWorld_after (tailPoints s) _ n torn rest _ _
  obtain ⟨t, -, ⟨st, r, rfl⟩, hstages⟩ := runs_stagesToUpscale s s
    (resetWorld (tailPoints s + Y * (dimLo s.dims.src + 2) + j) n torn rest s.pendCmd false) rfl
    ⟨.depth, row, by rw [← hp]⟩ (.inl (show tailPoints s ≤ tailPoints s + Y * (dimLo s.dims.src + 2) + j by omega))
    (by rw [hafter])
  rw [hself, hafter] at hstages
  rw [Nat.mul_comm (dimLo s.dims.src)] at hgo
  obtain ⟨o, ho, hrun⟩ := writingRows_reset (s := afterPalette (.run c st r) s) (w := c) (stage := .upscale)
    (height := dimHi s.dims.src) (n := n) (torn := torn) (rest := rest) (c := s.pendCmd) (p := false) hY
    (storing_zero rfl hm ht) (upscaleWrites_dest _) hj (fun h => absurd h (by decide)) hgo
  have hstage : stageUpscale (inWorld (resetWorld (Y * (dimLo s.dims.src + 2) + j) n torn rest s.pendCmd false)
      (afterPalette (.run c st r) s)) = .ended o := hrun
  rw [exec, execRunFrame_of_midFrame hp, frameTail,
    show ((((stageDepth s).andThen betweenStages).andThen stagePalette).andThen betweenStages) = _ from hstages,
    andThen_on, hstage]
  exact ho

theorem stagePoints_two (n : Nat) : stagePoints n 2 = max 1 (2 * n) := by
  unfold stagePoints
  split <;> omega

/-- Settles O48: each command reaches its rows of writes in the world of the reset. -/
theorem resetDuringUpscale : Obligations.ResetDuringUpscale := by
  refine ⟨fun s hm hv hd => resetInRow_upscale hm hv hd, fun s hm => ?_, fun s c row hp hpend hm ht hgo => ?_⟩
  · exact ⟨dumpResets_byte (buf := fun b => b.ibuf) (valid := fun v => v.ibuf) rfl hm,
      dumpResets_byte (buf := fun b => b.tbuf) (valid := fun v => v.tbuf) rfl hm,
      dumpResets_byte (buf := fun b => b.mbuf) (valid := fun v => v.mbuf) rfl hm,
      dumpResets_byte (buf := fun b => b.dbuf) (valid := fun v => v.dbuf) rfl hm,
      fun hv => dumpResets_of_elem (w := 0x49) (valid := fun v => v.cbuf)
        (elem := fun s x y => rgbBytes (cpx s.bufs.cbuf x y)) rfl hm hv (fun _ _ => rfl) fun _ _ _ _ => rfl⟩
  · have h := resetInRow_frameTail hp hpend hm ht hgo
    rwa [tailPoints, stagePoints_two, show max 1 (2 * workH s) + 1 + max 1 (2 * workH s) + 1 =
      2 * max 1 (2 * workH s) + 2 by omega] at h

end Sys2Proof.Machine
end

section
/-! PROOFS. Abandonment for a pending word (40_commands.md R168): the dither variants, the commands of one stage and the
two halves of RUN_FRAME, each followed to the row boundary at which the word is pending first. -/

namespace Sys2Proof.Machine

/-! ### What abandonment leaves -/

/-- What a stage that writes no frame memory leaves of `s` outside the buffers and their valid bits, with the LUT
`lut`, the random state `g` and the latched dimensions `d`. -/
structure Left (s : State) (lut : Lut) (g : Word) (d : Dims) (t : State) : Prop where
  busy : Machine.busy t = true
  status : { t.status with pending := false } = { s.status with pending := false }
  lut : t.lut = lut
  rng : t.rngState = g
  dims : t.dims = d
  mem : t.mem = s.mem

theorem Left.with_valid {s t : State} {lut : Lut} {g : Word} {d : Dims} (h : Left s lut g d t) (v : Valid) :
    Left s lut g d { t with valid := v } := ⟨h.busy, h.status, h.lut, h.rng, h.dims, h.mem⟩

/-! ### Rows at which a word lands -/

/-- The word lands in row `Y`, not the last: the command is abandoned after it. -/
theorem rowLoop_abandons_at {p : Nat} {P : Nat → State → Prop} {stage : Stage} {writes : Nat → State → List PortWrite}
    {body : Nat → State → Flow} {n m Y : Nat} {w c : Word} (hY : Y + 1 < n) (hlo : Y * p ≤ m) (hhi : m < (Y + 1) * p)
    (hrow : ∀ y, y ≤ Y → Takes false p (rowStep stage writes body y) (P y) (P (y + 1))) {s : State}
    (hs : s.inReset = false) (hP : P 0 s) :
    ∃ t, P (Y + 1) t ∧ rowLoop stage writes body (List.range n) (inWorld (World.bringing m w c) s)
      = .ended (.next (abandoned (inWorld (World.still w true) t))) :=
  rowLoop_abandons Y hY hrow hs hP (World.lets_bringing m w c _) (.inr (by rw [World.after_of_le (by exact hlo)]; rfl))
    (World.after_bringing w c hhi)

/-! ### The dither variants -/

/-- The running word `c` has dithered `n` rows with the variant `i`, and `s` was the state before them. -/
def Dithering (i : Instr) (s : State) (c : Word) (n : Nat) (t : State) : Prop :=
  ∃ m d st row, m.length = n ∧ t = ditherState s m
    (if draws i = true then drawn (n * workW s) s.rngState else s.rngState, d) (.run c st row)

theorem Dithering.left {i : Instr} {s t : State} {c : Word} {n : Nat} (h : Dithering i s c n t) :
    Left s s.lut (if draws i = true then drawn (n * workW s) s.rngState else s.rngState) s.dims t := by
  obtain ⟨m, d, st, row, -, rfl⟩ := h
  exact ⟨rfl, rfl, rfl, rfl, rfl, rfl⟩

/-- A row of a variant. -/
abbrev variantRow (row : Nat → State → List Byte × State) (y : Nat) (s : State) : State :=
  let s1 := (row y s).2
  { s1 with bufs := { s1.bufs with mbuf := s1.bufs.mbuf ++ [(row y s).1] } }

theorem IsVariant.takes {i : Instr} {setUp : State → State} {row : Nat → State → List Byte × State}
    (hv : IsVariant i setUp row) {s : State} {c : Word} {r : Bool} (y : Nat) :
    Takes r 2 (rowStep .dither noWrites (fun y s => .on (variantRow row y s)) y) (Dithering i s c y)
      (Dithering i s c (y + 1)) := by
  refine takes_pureRow (Q := Dithering i s c y) ?_ (fun _ h => h.left.busy) (fun _ h => h.left.busy) ?_
  · rintro t ⟨m, d, st, r', hm, rfl⟩
    exact ⟨m, d, .dither, y, hm, rfl⟩
  · rintro t σ ht ⟨m, d, st, r', hm, rfl⟩ -
    obtain ⟨f, hf⟩ := hv.row_eq y (inWorld σ (ditherState s m
      (if draws i = true then drawn (y * workW s) s.rngState else s.rngState, d) (.run c st r')))
    refine ⟨ditherState s (m ++ [(row y (inWorld σ (ditherState s m
      (if draws i = true then drawn (y * workW s) s.rngState else s.rngState, d) (.run c st r')))).1])
      (if draws i = true then drawn ((y + 1) * workW s) s.rngState else s.rngState, f) (.run c st r'), ht,
      ⟨_, f, st, r', by simp [hm], rfl⟩, ?_⟩
    dsimp only [variantRow]
    rw [hf, World.after_zero, Nat.succ_mul, drawn_add]
    by_cases hd : draws i = true
    · simp only [hd, if_true]
      rfl
    · simp only [hd]
      rfl

theorem IsVariant.start {i : Instr} {setUp : State → State} {row : Nat → State → List Byte × State}
    (hv : IsVariant i setUp row) {s : State} {c : Word} {r : Nat} (hp : s.phase = .run c .dither r) :
    Dithering i s c 0 (setUp { s with bufs := { s.bufs with mbuf := [] } }) := by
  obtain ⟨f, hf⟩ := hv.setUp_eq { s with bufs := { s.bufs with mbuf := [] } }
  refine ⟨[], f, .dither, r, rfl, ?_⟩
  rw [hf, ← hp]
  simp only [Nat.zero_mul, drawn, Function.iterate_zero, id, ite_self]
  rfl

theorem Dithering.inWorld_eq_self {i : Instr} {s t : State} {c : Word} {n : Nat} {σ : World}
    (h : Dithering i s c n t) (hs : inWorld σ s = s) : inWorld σ t = t := by
  obtain ⟨m, d, st, row, -, rfl⟩ := h
  exact congrArg (fun u => ditherState u m
    (if draws i = true then drawn (n * workW s) s.rngState else s.rngState, d) (.run c st row)) hs

/-- A style instruction is the rows of its variant and the end of the dither stage. -/
theorem exec_eq_rows {i : Instr} {s : State} {c : Word} {r : Nat} (hi : isCommand i = false)
    (hp : s.phase = .run c .dither r) :
    ∃ setUp row u, IsVariant i setUp row ∧ Dithering i s c 0 u
      ∧ exec i s = ((rowLoop .dither noWrites (fun y s => .on (variantRow row y s)) (List.range (workH s)) u).andThen
          endDither).out := by
  obtain ⟨setUp, row, hv, hexec⟩ := runsVariant_of_not_isCommand hi s
  exact ⟨setUp, row, _, hv, hv.start hp, hexec⟩

/-- What a statement says of a state that abandonment left, from the state before it. -/
theorem Left.abandonedFor {s t : State} {lut : Lut} {g : Word} {d : Dims} (h : Left s lut g d t) (w : Word) :
    AbandonedFor w s.status (abandoned (inWorld (World.still w true) t)) := abandonedFor_abandoned h.status

/-- A word that is pending from the start abandons a variant after its first row. -/
theorem variant_pending {i : Instr} {s : State} {r : Nat} {c : Word} (hi : isCommand i = false) (hs : s.script = [])
    (hpend : s.status.pending = true) (hp : s.phase = .run c .dither r) (hrows : 2 ≤ workH s) :
    ∃ t, Dithering i s c 1 t ∧ exec i s = .next (abandoned (inWorld (World.still s.pendCmd true) t)) := by
  obtain ⟨setUp, row, u, hv, hu, hexec⟩ := exec_eq_rows hi hp
  have hself := hu.inWorld_eq_self (inWorld_eq_self (σ := World.still s.pendCmd true) hs rfl hpend)
  obtain ⟨t, ht, hrun⟩ := rowLoop_abandons (r := u.inReset) (n := workH s) 0 hrows
    (fun y _ => hv.takes (s := s) (c := c) y) rfl hu (World.lets_still s.pendCmd true _ _) (.inl rfl)
    (World.after_still _ _ _)
  rw [hself] at hrun
  exact ⟨t, ht, by rw [hexec, hrun]; rfl⟩

/-- A word that lands on a variant of DITHER before its last row boundary, or on one of RUN_FRAME, abandons it after
the row in which it lands. -/
theorem variant_abandoned {i : Instr} {s : State} {r m : Nat} {c w : Word} (hi : isCommand i = false)
    (hs : s.script = wordAt m w) (hpend : s.status.pending = false) (hr : s.inReset = false)
    (hp : s.phase = .run c .dither r)
    (hm : if decodeCmd c = .runFrame then m < max 1 (2 * workH s) + 1 else m + 2 < 2 * workH s) :
    ∃ t, Dithering i s c (min (m / 2 + 1) (workH s)) t
      ∧ exec i s = .next (abandoned (inWorld (World.still w true) t)) := by
  obtain ⟨setUp, row, u, hv, hu, hexec⟩ := exec_eq_rows hi hp
  have hself := hu.inWorld_eq_self (inWorld_bringing hs hpend)
  have hur : u.inReset = false := by
    obtain ⟨m, d, st, row, -, rfl⟩ := hu
    exact hr
  by_cases hY : m / 2 + 1 < workH s
  · obtain ⟨t, ht, hrun⟩ := rowLoop_abandons_at (n := workH s) (m := m) (Y := m / 2) (w := w) (c := s.pendCmd) hY
      (by omega) (by omega) (fun y _ => hv.takes (s := s) (c := c) y) hur hu
    rw [hself] at hrun
    exact ⟨t, by rwa [Nat.min_eq_left hY.le], by rw [hexec, hrun]; rfl⟩
  · have hframe : decodeCmd c = .runFrame := by
      by_contra hne
      rw [if_neg hne] at hm
      omega
    rw [if_pos hframe] at hm
    have hlast : workH s ≤ 1 ∨ ((World.bringing m w s.pendCmd).after ((workH s - 1) * 2)).pending = false := by
      refine .inr ?_
      rw [World.after_of_le (show (workH s - 1) * 2 ≤ m by omega)]
      rfl
    obtain ⟨t, htr, ht, hrun⟩ := rowLoop_reaches (n := workH s) (P := Dithering i s c) (fun _ h => h.left.busy)
      (fun y _ => hv.takes y) hur hu (World.lets_bringing m w s.pendCmd _) hlast
    rw [hself] at hrun
    have hbrings : Brings w ((World.bringing m w s.pendCmd).after (stagePoints (workH s) 2)) :=
      Brings.after (.inl ⟨m, s.pendCmd, rfl⟩) _
    obtain ⟨v, hv, hstop⟩ := stops_betweenStages (P := fun v => v = mbufDone t) (fun v hv => hv ▸ ht.left.busy) w
      (mbufDone t) _ htr rfl hbrings (by
        rw [World.after_after (World.lets_bringing m w s.pendCmd _), stagePoints_two, World.after_bringing _ _ hm]
        rfl)
    subst hv
    have hruns (σ : World) : runsFrame (inWorld σ t) = true := by
      obtain ⟨b, d, st, row, -, rfl⟩ := ht
      exact decide_eq_true hframe
    refine ⟨t, by rwa [Nat.min_eq_right (by omega)], ?_⟩
    rw [hexec, hrun, andThen_on, endDither, if_pos (hruns _)]
    exact congrArg (fun f => (Flow.andThen f _).out) hstop

/-! ### The commands that fill a buffer -/

theorem bringing_after {k m : Nat} (w c : Word) (h : k ≤ m) :
    (World.bringing m w c).after k = World.bringing (m - k) w c := World.after_of_le h

theorem length_map_range {α : Type} (f : Nat → α) (n : Nat) : ((List.range n).map f).length = n := by simp

/-- A stage that fills a buffer, with the word landing in its row Y, not the last. -/
theorem fill_abandons {α : Type} {set : List (List α) → Phase → State} {row : Nat → List α}
    {rowf : Nat → State → State} {stage : Stage} (F : FillsRow set row false rowf) {cw w c : Word} {st : Stage}
    {r n m Y : Nat} (hY : Y + 1 < n) (hlo : Y * 2 ≤ m) (hhi : m < (Y + 1) * 2) :
    ∃ st' r', rowLoop stage noWrites (fun y s => .on (rowf y s)) (List.range n)
        (inWorld (World.bringing m w c) (set [] (.run cw st r)))
      = .ended (.next (abandoned (inWorld (World.still w true)
          (set ((List.range (Y + 1)).map row) (.run cw st' r'))))) := by
  obtain ⟨t, ⟨st', r', rfl⟩, hrun⟩ := rowLoop_abandons_at (P := FilledTo set row cw) (w := w) (c := c) hY hlo hhi
    (fun y _ => F.takes (stage := stage) y) (F.reset [] _) ⟨st, r, rfl⟩
  exact ⟨st', r', hrun⟩

/-- A command whose checks pass and whose body ends in a world. -/
theorem exec_inWorld {i : Instr} {w : Word} {checks : State → List Check} {regions : State → List Region}
    {body : State → Flow} {s : State} {σ : World} {o : Result} (hexec : exec i s = runCommand w checks regions body s)
    (hσ : inWorld σ s = s) (hl : σ.Lets s.inReset 1) (hck : ∀ σ t, checks (inWorld σ t) = checks t)
    (hrg : ∀ σ t, regions (inWorld σ t) = regions t) (hc : firstFail (checks (accept w s)) = none)
    (hr : (regions (accept w s)).any (meetsDevice (accept w s)) = false)
    (hb : body (inWorld (σ.after 1) (accept w s)) = .ended o) : exec i s = o := by
  have hrun := runCommand_inWorld (body := body) hl hck hrg hc hr
  rw [hσ, hb] at hrun
  rw [hexec, hrun]
  rfl

/-- The status after acceptance, the pending word apart. -/
abbrev StatusAccepted (s t : State) : Prop :=
  { t.status with pending := false } = { s.status with done := false, err := false, pending := false }

theorem abandonsAfterRow_of {i : Instr} {s : State} {head p n : Nat} {post : Nat → State → Prop}
    (hpend : s.status.pending = false)
    (hrun : ∀ w m Y, inWorld (World.bringing m w s.pendCmd) s = s → Y + 1 < n → head + Y * p ≤ m →
      m < head + (Y + 1) * p →
      ∃ t, exec i s = .next (abandoned (inWorld (World.still w true) t)) ∧ StatusAccepted s t
        ∧ post Y (abandoned (inWorld (World.still w true) t))) :
    AbandonsAfterRow i s head p n post := by
  intro w m Y hs hY hlo hhi
  obtain ⟨t, hexec, hst, hpost⟩ := hrun w m Y (inWorld_bringing hs hpend) hY hlo hhi
  exact ⟨_, hexec, abandonedFor_abandoned hst, hpost⟩

theorem depth_abandons {s : State} (hpend : s.status.pending = false) (hr : s.inReset = false)
    (hv : s.valid.mbuf = true) :
    AbandonsAfterRow .depth s 1 2 (workH s) fun Y t =>
      t.bufs.dbuf.length = Y + 1 ∧ t.lut = s.lut ∧ t.rngState = s.rngState ∧ t.mem = s.mem ∧ t.dims = s.dims := by
  refine abandonsAfterRow_of hpend fun w m Y hself hY hlo hhi => ?_
  have F := fillsRow_depth (accept 0x06 s)
  rw [show (accept 0x06 s).inReset = false from hr] at F
  obtain ⟨st, r, hrow⟩ := fill_abandons (stage := .depth) F (cw := 0x06) (w := w) (c := s.pendCmd) (st := .start)
    (r := 0) (m := m - 1) hY (by omega) (by omega)
  refine ⟨depthState (accept 0x06 s) ((List.range (Y + 1)).map (depthLine (accept 0x06 s))) (.run 0x06 st r),
    exec_inWorld (i := .depth) (w := 0x06) (checks := fun s => [checkSeq s.valid.mbuf]) (regions := noRegions)
    (body := fun s => thenComplete (stageDepth s)) rfl hself (by rw [hr]; exact World.lets_bringing _ _ _ _)
    (fun _ _ => rfl) (fun _ _ => rfl) ?_ rfl ?_, rfl,
    length_map_range _ (Y + 1), rfl, rfl, rfl, rfl⟩
  · simp [checkSeq, hv]
  · rw [bringing_after _ _ (by omega)]
    exact congrArg (fun f => thenComplete (Flow.andThen f _)) hrow

theorem palette_abandons {s : State} (hpend : s.status.pending = false) (hr : s.inReset = false)
    (hv : s.valid.dbuf = true) (h1 : 1 ≤ s.cfg.palCount.toNat) (h16 : s.cfg.palCount.toNat ≤ 16) :
    AbandonsAfterRow .palette s 1 2 (workH s) fun Y t =>
      t.bufs.cbuf.length = Y + 1 ∧ t.lut = s.lut ∧ t.rngState = s.rngState ∧ t.mem = s.mem ∧ t.dims = s.dims := by
  refine abandonsAfterRow_of hpend fun w m Y hself hY hlo hhi => ?_
  have F := fillsRow_palette (accept 0x07 s)
  rw [show (accept 0x07 s).inReset = false from hr] at F
  obtain ⟨st, r, hrow⟩ := fill_abandons (stage := .palette) F (cw := 0x07) (w := w) (c := s.pendCmd) (st := .start)
    (r := 0) (m := m - 1) hY (by omega) (by omega)
  refine ⟨paletteState (accept 0x07 s) ((List.range (Y + 1)).map (paletteLine (accept 0x07 s))) (.run 0x07 st r),
    exec_inWorld (i := .palette) (w := 0x07) (checks := fun s => [checkSeq s.valid.dbuf, checkPalette s])
    (regions := noRegions) (body := fun s => thenComplete (stagePalette s)) rfl hself
    (by rw [hr]; exact World.lets_bringing _ _ _ _) (fun _ _ => rfl) (fun _ _ => rfl) ?_ rfl ?_, rfl,
    length_map_range _ (Y + 1), rfl, rfl, rfl, rfl⟩
  · rw [← reported_eq_none_iff, reported_checkSeq, reported_checkPalette,
      show (accept 0x07 s).valid.dbuf = true from hv, if_neg (by simp), if_neg (by omega), reported_nil]
  · rw [bringing_after _ _ (by omega)]
    exact congrArg (fun f => thenComplete (Flow.andThen f _)) hrow

/-! ### TONEMAP and SAMPLE in a world -/

theorem buildIfNeeded_inWorld (σ : World) (s : State) : buildIfNeeded (inWorld σ s) = inWorld σ (buildIfNeeded s) := by
  unfold buildIfNeeded
  rw [show buildNeeded (inWorld σ s) = buildNeeded s from rfl]
  split <;> rfl

/-- The TONEMAP stage: its first landing point comes after the build. -/
theorem stageTonemap_inWorld {σ : World} {s : State} (hb : busy (buildIfNeeded s) = true)
    (hl : σ.Lets (buildIfNeeded s).inReset 1) :
    stageTonemap (inWorld σ s) =
      (rowLoop .tonemap noWrites (fun y s => .on (tonemapRow y s)) (List.range (workH (buildIfNeeded s)))
        (inWorld (σ.after 1) (startTonemap (buildIfNeeded s)))).andThen
        fun s => .on { s with valid := { s.valid with tbuf := true } } := by
  rw [stageTonemap, buildIfNeeded_inWorld, land_inWorld [] hb hl, andThen_on]
  rfl

theorem tonemap_abandons {s : State} (hpend : s.status.pending = false) (hr : s.inReset = false)
    (hv : s.valid.ibuf = true) (hlut : lutFits s ∨ ¬pole s) :
    AbandonsAfterRow .tonemap s 2 2 (workH s) fun Y t =>
      t.bufs.tbuf.length = Y + 1 ∧ t.lut = nextLut s ∧ t.rngState = s.rngState ∧ t.mem = s.mem ∧ t.dims = s.dims := by
  refine abandonsAfterRow_of hpend fun w m Y hself hY hlo hhi => ?_
  have hbuild : buildIfNeeded (accept 0x04 s) = { accept 0x04 s with lut := nextLut s } :=
    buildIfNeeded_eq (s := accept 0x04 s) s rfl rfl
  have F := fillsRow_tonemap (buildIfNeeded (accept 0x04 s))
  rw [hbuild, show ({ accept 0x04 s with lut := nextLut s } : State).inReset = false from hr] at F
  obtain ⟨st, r, hrow⟩ := fill_abandons (stage := .tonemap) F (cw := 0x04) (w := w) (c := s.pendCmd) (st := .start)
    (r := 0) (m := m - 1 - 1) hY (by omega) (by omega)
  refine ⟨tonemapState { accept 0x04 s with lut := nextLut s }
      ((List.range (Y + 1)).map (tonemapLine { accept 0x04 s with lut := nextLut s })) (.run 0x04 st r),
    exec_inWorld (i := .tonemap) (w := 0x04)
    (checks := fun s => [checkSeq s.valid.ibuf, checkContrast (buildNeeded s) s])
    (regions := noRegions) (body := fun s => thenComplete (stageTonemap s)) rfl hself
    (by rw [hr]; exact World.lets_bringing _ _ _ _) (fun _ _ => rfl) (fun _ _ => rfl) ?_ rfl ?_, rfl,
    length_map_range _ (Y + 1), rfl, rfl, rfl, rfl⟩
  · rw [firstFail_cons, firstFail_cons, checkContrast_buildNeeded_accept 0x04 hlut]
    simp [checkSeq, hv]
  · rw [bringing_after _ _ (by omega), stageTonemap_inWorld, bringing_after _ _ (by omega), hbuild]
    · exact congrArg (fun f => thenComplete (Flow.andThen f _)) hrow
    · rw [hbuild]
      rfl
    · rw [hbuild, show ({ accept 0x04 s with lut := nextLut s } : State).inReset = false from hr]
      exact World.lets_bringing _ _ _ _

/-- The SAMPLE stage after acceptance: its first landing point comes after the latch. -/
theorem stageSample_inWorld {σ : World} {s : State} (w : Word) (hf : SourceFits s) (hl : σ.Lets s.inReset 1) :
    stageSample (inWorld σ (accept w s)) =
      (rowLoop .sample noWrites sampleBody (List.range (nextH s))
        (inWorld (σ.after 1) (startSample (accept w s)))).andThen
        fun s => .on { s with valid := { s.valid with ibuf := true } } := by
  rw [← workH_startSample w hf, stageSample,
    show latchDims (snapWork (inWorld σ (accept w s))) (inWorld σ (accept w s)) =
    inWorld σ (latchDims (snapWork (accept w s)) (accept w s)) from rfl, 
    land_inWorld [] (s := latchDims (snapWork (accept w s)) (accept w s)) rfl hl, andThen_on]
  rfl

/-- The rows of the SAMPLE stage on a source that the port lets be read. -/
theorem takes_sampleRow_accept {s : State} {n : Nat} (w : Word) (hf : SourceFits s) (hr : SourceReadable s) {y : Nat}
    (hy : y < nextH s) :
    Takes s.inReset (nextW s + 2) (rowStep .sample noWrites sampleBody y) (Sampling (startSample (accept w s)) w n)
      (Sampling (startSample (accept w s)) w (n + 1)) := by
  rw [← workW_startSample w hf]
  refine takes_sampleRow rfl fun x hx => ?_
  rw [workW_startSample w hf] at hx
  exact ⟨(pixelAddr_le hf hx hy).trans hf.2.2.2.2.2, hr.2 x hx y hy⟩

theorem sample_abandons {s : State} (hpend : s.status.pending = false) (hr : s.inReset = false)
    (hf : SourceFits s) (hread : SourceReadable s) :
    AbandonsAfterRow .sample s 2 (nextW s + 2) (nextH s) fun Y t =>
      t.bufs.ibuf.length = Y + 1 ∧ t.lut = s.lut ∧ t.rngState = s.rngState ∧ t.mem = s.mem
        ∧ t.dims = ⟨BitVec.ofNat 16 (nextH s) ++ BitVec.ofNat 16 (nextW s), s.cfg.srcDim, s.cfg.scale⟩ := by
  refine abandonsAfterRow_of hpend fun w m Y hself hY hlo hhi => ?_
  have hz := zeroArea_accept_of_fits 0x03 hf
  have hone : 2 ≤ m := by omega
  obtain ⟨t, ⟨b, st, r, hlen, rfl⟩, hrow⟩ := rowLoop_abandons_at (n := nextH s) (p := nextW s + 2) (m := m - 1 - 1)
    (w := w) (c := s.pendCmd) (s := startSample (accept 0x03 s)) hY (by omega) (by omega)
    (fun y hy => hr ▸ takes_sampleRow_accept (n := y) 0x03 hf hread (by omega)) hr (sampling_startSample 0x03 s)
  refine ⟨sampleState (startSample (accept 0x03 s)) b (.run 0x03 st r),
    exec_inWorld (i := .sample) (w := 0x03) (checks := fun s => if zeroArea s then [] else sampleChecks s)
    (regions := fun s => if zeroArea s then [] else [sourceRegion s])
    (body := fun s => thenComplete (if zeroArea s then zeroAreaSample s else stageSample s)) rfl hself
    (by rw [hr]; exact World.lets_bringing _ _ _ _) (fun _ _ => rfl) (fun _ _ => rfl) ?_ ?_ ?_, rfl, hlen, rfl, rfl,
    rfl, ?_⟩
  · rw [if_neg hz]
    exact firstFail_sampleChecks 0x03 hf
  · rw [if_neg hz]
    exact (Bool.or_false _).trans hread.1
  · rw [bringing_after _ _ (by omega), if_neg (by exact hz), stageSample_inWorld 0x03 hf
      (by rw [hr]; exact World.lets_bringing _ _ _ _), bringing_after _ _ (by omega)]
    exact congrArg (fun f => thenComplete (Flow.andThen f _)) hrow
  · show (startSample (accept 0x03 s)).dims = _
    rw [startSample, latchDims_accept]
    rfl

end Sys2Proof.Machine
end

section
/-! PROOFS. Abandonment of the commands that write a destination, and of the two halves of RUN_FRAME (40_commands.md
R168, 20_memory.md R101). -/

namespace Sys2Proof.Machine

/-! ### A destination -/

section
variable {s : State} {w : Word} {base count u : Nat} {b : Nat → Nat → Nat → Byte}

/-- A stage that writes a destination, with the word pending first after row Y, not the last. -/
theorem writingRows_abandons {stage : Stage} {writes : Nat → State → List PortWrite} {height Y : Nat} {σ : World}
    {w' : Word} (hY : Y + 1 < height) (hs : Storing s w base count u b 0 s) (hw : WritesDest s base count u b writes)
    (hgo : WritesGo s base (height * count) u) (hl : σ.Lets s.inReset ((Y + 1) * (count + 2)))
    (hpend : Y = 0 ∨ (σ.after (Y * (count + 2))).pending = false)
    (hafter : σ.after ((Y + 1) * (count + 2)) = World.still w' true) :
    ∃ t, Storing s w base count u b ((Y + 1) * count) t ∧ writingRows stage height writes (inWorld σ s)
      = .ended (.next (abandoned (inWorld (World.still w' true) t))) := by
  obtain ⟨hle, hgo⟩ := hgo
  exact rowLoop_abandons (P := fun y => Storing s w base count u b (y * count)) (stage := stage) (n := height) Y hY
    (fun y hy => takes_writingRow (r := s.inReset) hw (row_le (by omega) hle) fun X hX =>
      hgo _ (place_lt (by omega) hX))
    rfl (by simpa using hs) hl hpend hafter

/-- A command that writes a destination, with the word pending first after row Y, not the last. -/
theorem runCommand_dest_abandons {i : Instr} {checks : State → List Check} {regions : State → List Region}
    {stage : Stage} {height : State → Nat} {writes : Nat → State → List PortWrite} {Y : Nat} {σ : World} {w' : Word}
    (hexec : exec i s = runCommand w checks regions (fun s => thenComplete (writingRows stage (height s) writes s)) s)
    (hm : s.mem.wf = true) (hck : ∀ σ t, checks (inWorld σ t) = checks t)
    (hrg : ∀ σ t, regions (inWorld σ t) = regions t) (hh : ∀ σ t, height (inWorld σ t) = height t)
    (hc : firstFail (checks (accept w s)) = none) (hr : (regions (accept w s)).any (meetsDevice (accept w s)) = false)
    (hw : WritesDest (accept w s) base count u b writes) (hgo : WritesGo s base (height (accept w s) * count) u)
    (hY : Y + 1 < height (accept w s)) (hσ : inWorld σ s = s) (hl : σ.Lets s.inReset (1 + (Y + 1) * (count + 2)))
    (hpend : Y = 0 ∨ (σ.after (1 + Y * (count + 2))).pending = false)
    (hafter : σ.after (1 + (Y + 1) * (count + 2)) = World.still w' true) :
    ∃ t, Storing (accept w s) w base count u b ((Y + 1) * count) t
      ∧ exec i s = .next (abandoned (inWorld (World.still w' true) t)) := by
  have hl' : σ.Lets s.inReset (1 + Y * (count + 2)) := hl.mono (by rw [Nat.succ_mul Y]; omega)
  rw [← World.after_after hl'] at hpend
  rw [← World.after_after hl] at hafter
  obtain ⟨t, ht, hrun⟩ := writingRows_abandons (s := accept w s) (stage := stage) hY (storing_zero rfl hm rfl) hw hgo
    hl.after hpend hafter
  refine ⟨t, ht, exec_inWorld hexec hσ (hl.mono (Nat.le_add_right _ _)) hck hrg hc hr ?_⟩
  rw [hh, hrun]
  rfl

/-- What abandonment leaves of a destination. -/
theorem Storing.abandoned {N : Nat} {t : State} {w' : Word} (h : Storing s w base count u b N t) :
    { t.status with pending := false } = { s.status with pending := false }
      ∧ Stored base count u b N s.mem (abandoned (inWorld (World.still w' true) t)).mem
      ∧ (Machine.abandoned (inWorld (World.still w' true) t)).lut = s.lut
      ∧ (Machine.abandoned (inWorld (World.still w' true) t)).rngState = s.rngState
      ∧ (Machine.abandoned (inWorld (World.still w' true) t)).dims = s.dims := by
  obtain ⟨m, record, st, row, hm, rfl⟩ := h
  exact ⟨rfl, hm, rfl, rfl, rfl⟩

end

/-- The first rows of the destination of UPSCALE, from what memory holds. -/
theorem pixelRowsWritten_of_stored {s t : State} {cbuf : List (List Rgb)} {base width n : Nat}
    (h : Stored base width 4 (outByte cbuf (workW s) (workH s) s.dims.scale.toNat) (n * width) s.mem t.mem) :
    PixelRowsWritten s t cbuf base width n :=
  ⟨fun _ _ _ hX hY hk => h.read hX (place_lt hY hX) hk, h.outside⟩

/-- The conditions of UPSCALE's launch, for its runs in a world. -/
theorem upscale_dest_abandons {s : State} {Y : Nat} {σ : World} {w' : Word} (hm : s.mem.wf = true)
    (hv : s.valid.cbuf = true) (hd : DestinationTakes s (dimLo s.dims.src * dimHi s.dims.src) 4)
    (hY : Y + 1 < dimHi s.dims.src) (hσ : inWorld σ s = s)
    (hl : σ.Lets s.inReset (1 + (Y + 1) * (dimLo s.dims.src + 2)))
    (hpend : Y = 0 ∨ (σ.after (1 + Y * (dimLo s.dims.src + 2))).pending = false)
    (hafter : σ.after (1 + (Y + 1) * (dimLo s.dims.src + 2)) = World.still w' true) :
    ∃ t, Storing (accept 0x08 s) 0x08 s.cfg.dstBase.toNat (dimLo s.dims.src) 4
        (outByte s.bufs.cbuf (workW s) (workH s) s.dims.scale.toNat) ((Y + 1) * dimLo s.dims.src) t
      ∧ exec .upscale s = .next (abandoned (inWorld (World.still w' true) t)) := by
  obtain ⟨hgo, hdev⟩ := hd
  rw [← Nat.mul_assoc] at hdev
  have hsize := hgo.1
  rw [← Nat.mul_assoc] at hsize
  rw [Nat.mul_comm (dimLo s.dims.src)] at hgo
  exact runCommand_dest_abandons (i := .upscale) (w := 0x08) (stage := .upscale) (height := latH) rfl hm
    (fun _ _ => rfl) (fun _ _ => rfl) (fun _ _ => rfl) (firstFail_dest hv hsize) ((Bool.or_false _).trans hdev)
    (upscaleWrites_dest (accept 0x08 s)) hgo hY hσ hl hpend hafter

theorem upscale_abandons {s : State} (hpend : s.status.pending = false) (hr : s.inReset = false)
    (hm : s.mem.wf = true) (hv : s.valid.cbuf = true)
    (hd : DestinationTakes s (dimLo s.dims.src * dimHi s.dims.src) 4) :
    AbandonsAfterRow .upscale s 1 (dimLo s.dims.src + 2) (dimHi s.dims.src) fun Y t =>
      t.lut = s.lut ∧ t.rngState = s.rngState ∧ t.dims = s.dims
        ∧ PixelRowsWritten s t s.bufs.cbuf s.cfg.dstBase.toNat (dimLo s.dims.src) (Y + 1) := by
  refine abandonsAfterRow_of hpend fun w m Y hself hY hlo hhi => ?_
  obtain ⟨t, ht, hrun⟩ := upscale_dest_abandons (w' := w) hm hv hd hY hself
    (by rw [hr]; exact World.lets_bringing _ _ _ _) (.inr (by rw [bringing_after _ _ hlo]; rfl))
    (World.after_bringing _ _ hhi)
  obtain ⟨hst, hstored, hlut, hrng, hdims⟩ := ht.abandoned (w' := w)
  exact ⟨t, hrun, hst, hlut, hrng, hdims, pixelRowsWritten_of_stored hstored⟩

theorem dump_abandons {i : Instr} {w : Word} {valid : Valid → Bool} {e : Nat} {elem : State → Nat → Nat → List Byte}
    {s : State} (hexec : exec i s = runDump w valid e elem s) (hpend : s.status.pending = false)
    (hr : s.inReset = false) (hm : s.mem.wf = true) (hv : valid s.valid = true)
    (helem : ∀ σ m record p, elem (inWorld σ (writeState (accept w s) m record p)) = elem (accept w s)) :
    DumpAbandons i e (fun x y k => (elem (accept w s) x y).getD k 0) s := by
  intro hd
  obtain ⟨hgo, hdev⟩ := hd
  rw [Nat.one_mul] at hdev
  have hsize := hgo.1
  rw [Nat.one_mul] at hsize
  rw [Nat.mul_comm (e * workW s)] at hgo
  refine abandonsAfterRow_of hpend fun w' m Y hself hY hlo hhi => ?_
  obtain ⟨t, ht, hrun⟩ := runCommand_dest_abandons (w := w) (w' := w') (stage := .dump) (height := workH) hexec hm
    (fun _ _ => rfl) (fun _ _ => rfl) (fun _ _ => rfl) (firstFail_dest hv hsize) ((Bool.or_false _).trans hdev)
    (dumpWrites_dest helem) hgo hY hself (by rw [hr]; exact World.lets_bringing _ _ _ _)
    (.inr (by rw [show workW (accept w s) = workW s from rfl, bringing_after _ _ hlo]; rfl))
    (World.after_bringing _ _ hhi)
  obtain ⟨hst, hstored, hlut, hrng, hdims⟩ := ht.abandoned (w' := w')
  refine ⟨t, hrun, hst, hlut, hrng, hdims, fun x y k hx hy hk => ?_, fun a ha => hstored.outside a ?_⟩
  · obtain ⟨hplace, hdiv, hmod⟩ := elem_place (workW s) x y hk
    have hlt := elem_lt hx hk
    have hread := hstored.read (k := 0) hlt (place_lt (Nat.lt_succ_of_le hy) hlt) Nat.one_pos
    rw [show workW (accept w s) = workW s from rfl, hdiv, hmod, Nat.one_mul, Nat.add_zero] at hread
    rwa [Nat.add_assoc, hplace]
  · rwa [Nat.one_mul, Nat.mul_left_comm]

theorem dump_abandons_byte {i : Instr} {w : Word} {valid : Valid → Bool} {buf : Bufs → List (List Byte)} {s : State}
    (hexec : exec i s = runDump w valid 1 (fun s x y => [px (buf s.bufs) x y]) s) (hpend : s.status.pending = false)
    (hr : s.inReset = false) (hm : s.mem.wf = true) (hv : valid s.valid = true) :
    DumpAbandons i 1 (fun x y _ => px (buf s.bufs) x y) s := by
  intro hd w' m Y hs hY hlo hhi
  obtain ⟨t, hrun, habandoned, hlut, hrng, hdims, hread, hrest⟩ :=
    dump_abandons hexec hpend hr hm hv (fun _ _ _ _ => rfl) hd w' m Y hs hY hlo hhi
  refine ⟨t, hrun, habandoned, hlut, hrng, hdims, fun x y k hx hy hk => ?_, hrest⟩
  obtain rfl : k = 0 := by omega
  exact hread x y 0 hx hy hk

/-! ### The last step of RUN_FRAME -/

theorem FilledTo.left {α : Type} {set : List (List α) → Phase → State} {row : Nat → List α} {w : Word} {n : Nat}
    {s t : State} (h : FilledTo set row w n t) (hset : ∀ b st r, Left s s.lut s.rngState s.dims (set b (.run w st r))) :
    Left s s.lut s.rngState s.dims t := by
  obtain ⟨st, r, rfl⟩ := h
  exact hset _ st r

theorem stops_stageDepth {s : State} {w : Word} (hr : s.inReset = false) :
    Stops (stagePoints (workH s) 2 + 1) (fun t => (stageDepth t).andThen betweenStages) (At (atAny s) w)
      (Left s s.lut s.rngState s.dims) := by
  rintro w' t σ ht ⟨st, r, rfl⟩ hbr hpend
  have F := fillsRow_depth s
  rw [hr] at F
  have hleft (k : Nat) (t : State) (h : FilledTo (depthState s) (depthLine s) w k t) :
      Left s s.lut s.rngState s.dims t := h.left fun _ _ _ => ⟨rfl, rfl, rfl, rfl, rfl, rfl⟩
  exact stops_rows_between (stage := .depth) (n := workH s)
    (post := fun s => { s with valid := { s.valid with dbuf := true } })
    (fun k t h => (hleft k t h).busy) (fun y _ => F.takes y)
    (takes_on (fun _ _ => rfl) (fun _ => rfl) fun t h => (hleft _ t h).with_valid _)
    (fun _ h => h.busy) hleft w' (startDepth (atAny s (.run w st r))) σ hr ⟨st, r, rfl⟩ hbr hpend

theorem stops_stagePalette {s : State} {w : Word} (hr : s.inReset = false) :
    Stops (stagePoints (workH s) 2 + 1) (fun t => (stagePalette t).andThen betweenStages)
      (At (fun p => afterDepth p s) w) (Left s s.lut s.rngState s.dims) := by
  rintro w' t σ ht ⟨st, r, rfl⟩ hbr hpend
  have F := fillsRow_palette (afterDepth .idle s)
  rw [show (afterDepth .idle s).inReset = false from hr] at F
  have hleft (k : Nat) (t : State)
      (h : FilledTo (paletteState (afterDepth .idle s)) (paletteLine (afterDepth .idle s)) w k t) :
      Left s s.lut s.rngState s.dims t := h.left fun _ _ _ => ⟨rfl, rfl, rfl, rfl, rfl, rfl⟩
  exact stops_rows_between (stage := .palette) (n := workH s)
    (post := fun s => { s with valid := { s.valid with cbuf := true } })
    (fun k t h => (hleft k t h).busy) (fun y _ => F.takes y)
    (takes_on (fun _ _ => rfl) (fun _ => rfl) fun t h => (hleft _ t h).with_valid _)
    (fun _ h => h.busy) hleft w' (startPalette (afterDepth (.run w st r) s)) σ hr ⟨st, r, rfl⟩ hbr hpend

theorem stops_stagesToUpscale {s : State} {w : Word} (hr : s.inReset = false) :
    Stops (tailPoints s) stagesToUpscale (At (atAny s) w) (Left s s.lut s.rngState s.dims) := by
  have hrun : Runs false (stagePoints (workH s) 2 + 1) (fun t => (stageDepth t).andThen betweenStages) (At (atAny s) w)
      (At (fun p => afterDepth p s) w) :=
    hr ▸ (runs_stageDepth s).andThen (runs_betweenStages fun _ => at_busy fun _ _ _ => rfl)
  have hstops := (stops_stageDepth hr).andThen_stops hrun (stops_stagePalette (w := w) hr)
  intro w' t σ ht hP hbr hpend
  obtain ⟨v, hv, hrun⟩ := hstops w' t σ ht hP hbr hpend
  refine ⟨v, hv, ?_⟩
  rw [stagesToUpscale, andThen_assoc]
  exact hrun

/-- Abandonment of the last step of RUN_FRAME before its UPSCALE stage. -/
theorem frameTail_abandons {s : State} {c w : Word} {row m : Nat} (hs : s.script = wordAt m w)
    (hpend : s.status.pending = false) (hr : s.inReset = false) (hp : s.phase = .run c .depth row)
    (hm : m < tailPoints s) :
    ∃ t, Left s s.lut s.rngState s.dims t
      ∧ exec .runFrame s = .next (abandoned (inWorld (World.still w true) t)) := by
  obtain ⟨t, ht, hrun⟩ := stops_stagesToUpscale hr w s (World.bringing m w s.pendCmd) hr ⟨.depth, row, by rw [← hp]⟩
    (.inl ⟨m, s.pendCmd, rfl⟩) (by rw [World.after_bringing _ _ hm]; rfl)
  rw [inWorld_bringing hs hpend] at hrun
  refine ⟨t, ht, ?_⟩
  rw [exec, execRunFrame_of_midFrame hp, frameTail]
  exact congrArg (fun f => (thenComplete (Flow.andThen f stageUpscale)).out) hrun

/-- Abandonment of the last step of RUN_FRAME in its UPSCALE stage. -/
theorem frameTail_upscale_abandons {s : State} {c w : Word} {row m Y : Nat} (hs : s.script = wordAt m w)
    (hpend : s.status.pending = false) (hr : s.inReset = false) (hp : s.phase = .run c .depth row)
    (hmem : s.mem.wf = true) (ht : s.race.touched = [])
    (hgo : WritesGo s s.snap.dstBase.toNat (dimLo s.dims.src * dimHi s.dims.src) 4) (hY : Y + 1 < dimHi s.dims.src)
    (hlo : tailPoints s + Y * (dimLo s.dims.src + 2) ≤ m) (hhi : m < tailPoints s + (Y + 1) * (dimLo s.dims.src + 2)) :
    ∃ st r t, Storing (afterPalette (.run c st r) s) c s.snap.dstBase.toNat (dimLo s.dims.src) 4
        (outByte (tailCbuf s) (workW s) (workH s) s.dims.scale.toNat) ((Y + 1) * dimLo s.dims.src) t
      ∧ exec .runFrame s = .next (abandoned (inWorld (World.still w true) t)) := by
  have hafter : (World.bringing m w s.pendCmd).after (tailPoints s) = World.bringing (m - tailPoints s) w s.pendCmd :=
    bringing_after w _ (by omega)
  obtain ⟨v, -, ⟨st, r, rfl⟩, hstages⟩ := runs_stagesToUpscale (w := c) s s (World.bringing m w s.pendCmd) rfl
    ⟨.depth, row, by rw [← hp]⟩ (by rw [hr]; exact World.lets_bringing _ _ _ _) (by rw [hafter]; rfl)
  rw [inWorld_bringing hs hpend, hafter] at hstages
  rw [Nat.mul_comm (dimLo s.dims.src)] at hgo
  obtain ⟨t, ht, hrun⟩ := writingRows_abandons (s := afterPalette (.run c st r) s) (w := c) (stage := .upscale)
    (σ := World.bringing (m - tailPoints s) w s.pendCmd) hY (storing_zero rfl hmem ht) (upscaleWrites_dest _) hgo
    (by rw [show (afterPalette (.run c st r) s).inReset = false from hr]; exact World.lets_bringing _ _ _ _)
    (.inr (by rw [bringing_after _ _ (Nat.le_sub_of_add_le (by rw [Nat.add_comm]; exact hlo))]; rfl))
    (World.after_bringing _ _ (by exact Nat.sub_lt_left_of_lt_add (by omega) hhi))
  refine ⟨st, r, t, ht, ?_⟩
  rw [exec, execRunFrame_of_midFrame hp, frameTail,
    show ((((stageDepth s).andThen betweenStages).andThen stagePalette).andThen betweenStages) = _ from hstages,
    andThen_on]
  exact congrArg (fun f => (thenComplete f).out) hrun

/-! ### RUN_FRAME up to its dispatch -/

/-- The state after the SAMPLE stage of a frame with IBUF `b`, and with the LUT that the TONEMAP stage then uses. -/
def sampledState (w : Word) (s : State) (b : List (List Byte)) (p : Phase) : State :=
  { sampleState (startSample (accept w s)) b p with valid := ⟨true, false, false, false, false⟩ }
def builtState (w : Word) (s : State) (b : List (List Byte)) (p : Phase) : State :=
  { sampledState w s b p with lut := nextLut s }

/-- The SAMPLE stage of a frame is done. -/
def Sampled (w : Word) (s t : State) : Prop := ∃ b st r, t = sampledState w s b (.run w st r)

theorem startSample_dims (w : Word) (s : State) : (startSample (accept w s)).dims = sampledDims s := by
  rw [startSample, latchDims_accept]
  rfl

theorem Sampling.left {w : Word} {n : Nat} {s t : State} (h : Sampling (startSample (accept w s)) w n t) :
    Left (accept w s) s.lut s.rngState (sampledDims s) t := by
  obtain ⟨b, st, r, -, rfl⟩ := h
  exact ⟨rfl, rfl, rfl, rfl, startSample_dims w s, rfl⟩

section
variable {s : State} {w : Word}

theorem stops_stageSample (hr : s.inReset = false) (hf : SourceFits s) (hread : SourceReadable s) :
    Stops (1 + (stagePoints (nextH s) (nextW s + 2) + 1)) (fun t => (stageSample t).andThen betweenStages)
      (fun t => t = accept w s) (Left (accept w s) s.lut s.rngState (sampledDims s)) := by
  rintro w' t σ ht rfl hbr hpend
  rw [← World.after_after (hbr.lets _)] at hpend
  obtain ⟨v, hv, hstop⟩ := stops_rows_between (stage := .sample) (n := nextH s) (p := nextW s + 2)
    (P := Sampling (startSample (accept w s)) w) (post := fun s => { s with valid := { s.valid with ibuf := true } })
    (M := Left (accept w s) s.lut s.rngState (sampledDims s)) (fun _ _ h => h.busy)
    (fun y hy => hr ▸ takes_sampleRow_accept (n := y) w hf hread hy)
    (takes_on (fun _ _ => rfl) (fun _ => rfl) fun t h => h.left.with_valid _)
    (fun _ h => h.busy) (fun _ _ h => h.left) w' (startSample (accept w s)) (σ.after 1) hr (sampling_startSample w s)
    (hbr.after 1) hpend
  refine ⟨v, hv, ?_⟩
  dsimp only
  rw [stageSample_inWorld w hf (by rw [hr]; exact hbr.lets 1)]
  exact hstop

theorem runs_stageSample (hr : s.inReset = false) (hf : SourceFits s) (hread : SourceReadable s) :
    Runs false (1 + stagePoints (nextH s) (nextW s + 2)) stageSample (fun t => t = accept w s) (Sampled w s) := by
  rintro t σ ht rfl hl hpend
  rw [← World.after_after hl] at hpend ⊢
  obtain ⟨v, hv, ⟨b, st, r, -, rfl⟩, hgo⟩ := runs_rowLoop (stage := .sample) (n := nextH s) (p := nextW s + 2)
    (P := Sampling (startSample (accept w s)) w) (fun _ h => h.busy)
    (fun y hy => hr ▸ takes_sampleRow_accept (n := y) w hf hread hy) (startSample (accept w s)) (σ.after 1) hr
    (sampling_startSample w s) hl.after hpend
  refine ⟨sampledState w s b (.run w st r), hr, ⟨b, st, r, rfl⟩, ?_⟩
  rw [stageSample_inWorld w hf (by rw [hr]; exact hl.mono (Nat.le_add_right _ _)), hgo]
  rfl

theorem Sampled.busy {t : State} (h : Sampled w s t) : busy t = true := by
  obtain ⟨b, st, r, rfl⟩ := h
  rfl

theorem stops_stageTonemap (hr : s.inReset = false) (hf : SourceFits s) :
    Stops (1 + (stagePoints (nextH s) 2 + 1)) (fun t => (stageTonemap t).andThen betweenStages) (Sampled w s)
      (Left (accept w s) (nextLut s) s.rngState (sampledDims s)) := by
  rintro w' t σ ht ⟨b, st, r, rfl⟩ hbr hpend
  rw [← World.after_after (hbr.lets _)] at hpend
  have hbuild : buildIfNeeded (sampledState w s b (.run w st r)) = builtState w s b (.run w st r) :=
    buildIfNeeded_eq (s := sampledState w s b (.run w st r)) s rfl rfl
  have F := fillsRow_tonemap (builtState w s b (.run w st r))
  rw [show (builtState w s b (.run w st r)).inReset = false from hr] at F
  have hleft (k : Nat) (t : State) (h : FilledTo (tonemapState (builtState w s b (.run w st r)))
      (tonemapLine (builtState w s b (.run w st r))) w k t) :
      Left (accept w s) (nextLut s) s.rngState (sampledDims s) t := by
    obtain ⟨st, r, rfl⟩ := h
    exact ⟨rfl, rfl, rfl, rfl, startSample_dims w s, rfl⟩
  obtain ⟨v, hv, hstop⟩ := stops_rows_between (stage := .tonemap) (n := nextH s) (p := 2)
    (post := fun s => { s with valid := { s.valid with tbuf := true } })
    (M := Left (accept w s) (nextLut s) s.rngState (sampledDims s)) (fun k t h => (hleft k t h).busy)
    (fun y hy => F.takes y)
    (takes_on (fun _ _ => rfl) (fun _ => rfl) fun t h => (hleft _ t h).with_valid _)
    (fun _ h => h.busy) hleft w' (startTonemap (builtState w s b (.run w st r))) (σ.after 1) hr ⟨st, r, rfl⟩
    (hbr.after 1) hpend
  refine ⟨v, hv, ?_⟩
  dsimp only
  rw [stageTonemap_inWorld (by rw [hbuild]; rfl) (by rw [hbuild]; exact hr ▸ hbr.lets 1), hbuild,
    show workH (builtState w s b (.run w st r)) = nextH s from workH_startSample w hf]
  exact hstop

/-- A frame is abandoned in its first two stages or at the boundary after one of them. -/
theorem frameHead_abandons (hr : s.inReset = false) (hf : SourceFits s) (hread : SourceReadable s) {σ : World}
    {w' : Word} (hbr : Brings w' σ) (hpend : (σ.after (nextH s * (nextW s + 4) + 4)).pending = true) :
    ∃ t, Left (accept w s) (if (σ.after (nextH s * (nextW s + 2) + 2)).pending = true then s.lut else nextLut s)
        s.rngState (sampledDims s) t
      ∧ frameHead (inWorld σ (accept w s)) = .ended (.next (abandoned (inWorld (World.still w' true) t))) := by
  have hpoints (p : Nat) : stagePoints (nextH s) p = nextH s * p :=
    if_neg (Nat.ne_of_gt (Nat.le_max_left 1 _))
  have hsample : 1 + (nextH s * (nextW s + 2) + 1) = nextH s * (nextW s + 2) + 2 := by omega
  by_cases h1 : (σ.after (nextH s * (nextW s + 2) + 2)).pending = true
  · obtain ⟨t, ht, hrun⟩ := stops_stageSample (w := w) hr hf hread w' (accept w s) σ hr rfl hbr
      (by rwa [hpoints, hsample])
    rw [if_pos h1]
    refine ⟨t, ht, ?_⟩
    rw [frameHead]
    exact congrArg (fun f => ((Flow.andThen f stageTonemap).andThen betweenStages).andThen _) hrun
  · obtain ⟨u, hu, hsampled, hgo⟩ := ((runs_stageSample (w := w) hr hf hread).andThen
      (runs_betweenStages fun _ h => h.busy)) (accept w s) σ hr rfl (hbr.lets _)
      (by rwa [hpoints, Nat.add_assoc, hsample, ← Bool.not_eq_true])
    rw [hpoints, Nat.add_assoc, hsample] at hgo
    obtain ⟨t, ht, hrun⟩ := stops_stageTonemap hr hf w' u (σ.after (nextH s * (nextW s + 2) + 2)) hu hsampled
      (hbr.after _) (by
        have hsum : nextH s * (nextW s + 2) + 2 + (1 + (nextH s * 2 + 1)) = nextH s * (nextW s + 4) + 4 := by
          rw [show nextW s + 4 = nextW s + 2 + 2 from rfl, Nat.mul_add (nextH s) (nextW s + 2)]
          omega
        rwa [World.after_after (hbr.lets _), hpoints, hsum])
    rw [if_neg h1]
    refine ⟨t, ht, ?_⟩
    rw [frameHead]
    refine (congrArg (fun f => ((Flow.andThen f stageTonemap).andThen betweenStages).andThen _) hgo).trans ?_
    exact congrArg (fun f => Flow.andThen f _) hrun

end

theorem bringing_after_pending {m n : Nat} {w c : Word} :
    ((World.bringing m w c).after n).pending = true ↔ m < n := by
  rcases Nat.lt_or_ge m n with h | h
  · simp [World.after_bringing w c h, h, World.still]
  · rw [bringing_after w c h]
    simp [Nat.not_lt.2 h, World.bringing]

/-- RUN_FRAME is abandoned before its dispatch. -/
theorem exec_runFrame_abandons {s : State} {w : Word} {m : Nat} (hs : s.script = wordAt m w)
    (hpend : s.status.pending = false) (hr : s.inReset = false) (hn : NotMidFrame s) (h : FrameRuns s)
    (hm : m < nextH s * (nextW s + 4) + 5) :
    ∃ t, Left (accept 0x01 s) (if m < nextH s * (nextW s + 2) + 3 then s.lut else nextLut s) s.rngState
        (sampledDims s) t
      ∧ exec .runFrame s = .next (abandoned (inWorld (World.still w true) t)) := by
  have hbr : Brings w (World.bringing m w s.pendCmd) := .inl ⟨m, s.pendCmd, rfl⟩
  have hz := zeroArea_accept_of_fits 0x01 h.1
  obtain ⟨t, ht, hrun⟩ := frameHead_abandons (w := 0x01) hr h.1 h.2.1 (hbr.after 1) (by
    rw [World.after_after (hbr.lets _), bringing_after_pending]
    omega)
  simp only [World.after_after (hbr.lets _), bringing_after_pending, Nat.add_comm 1] at ht
  refine ⟨t, ht, exec_inWorld (by rw [exec, execRunFrame_of_notMidFrame hn]) (inWorld_bringing hs hpend)
    (by rw [hr]; exact hbr.lets 1) (fun _ _ => rfl) (fun _ _ => rfl) ?_ ?_ ?_⟩
  · rw [if_neg hz]
    exact firstFail_frameChecks h.launches
  · rw [if_neg hz, List.any_cons, List.any_cons, List.any_nil, Bool.or_false, Bool.or_eq_false_iff]
    exact ⟨h.launches.2.1, h.launches.2.2.2.1⟩
  · rw [if_neg (by exact hz)]
    exact hrun

/-! ### The statement -/

theorem pending_variant {i : Instr} {s : State} {row : Nat} {c : Word} (hi : isCommand i = false) (hs : s.script = [])
    (hpend : s.status.pending = true) (hp : s.phase = .run c .dither row) (hrows : 2 ≤ workH s) :
    ∃ t, exec i s = .next t ∧ AbandonedFor s.pendCmd s.status t ∧ t.lut = s.lut
      ∧ t.rngState = (if draws i = true then drawn (workW s) s.rngState else s.rngState)
      ∧ ∀ a, t.mem.read a = s.mem.read a := by
  obtain ⟨t, ht, hrun⟩ := variant_pending hi hs hpend hp hrows
  refine ⟨_, hrun, ht.left.abandonedFor _, ht.left.lut, ?_, fun a => congrArg (fun m => m.read a) ht.left.mem⟩
  have hrng := ht.left.rng
  rwa [Nat.one_mul] at hrng

theorem pending_upscale {s : State} (hs : s.script = []) (hpend : s.status.pending = true) (hm : s.mem.wf = true)
    (hv : s.valid.cbuf = true) (hd : DestinationTakes s (dimLo s.dims.src * dimHi s.dims.src) 4)
    (hrows : 2 ≤ dimHi s.dims.src) :
    ∃ t, exec .upscale s = .next t ∧ AbandonedFor s.pendCmd { s.status with done := false, err := false } t
      ∧ t.lut = s.lut ∧ t.rngState = s.rngState ∧ t.dims = s.dims
      ∧ PixelRowsWritten s t s.bufs.cbuf s.cfg.dstBase.toNat (dimLo s.dims.src) 1 := by
  have hself : inWorld (World.still s.pendCmd true) s = s := inWorld_eq_self hs rfl hpend
  obtain ⟨t, ht, hrun⟩ := upscale_dest_abandons (Y := 0) hm hv hd hrows hself (World.lets_still _ _ _ _) (.inl rfl)
    (World.after_still _ _ _)
  obtain ⟨hst, hstored, hlut, hrng, hdims⟩ := ht.abandoned (w' := s.pendCmd)
  exact ⟨_, hrun, abandonedFor_abandoned hst, hlut, hrng, hdims, pixelRowsWritten_of_stored hstored⟩

/-- Settles O59: each kind of command, at the boundary at which the word is pending first. -/
theorem pendingAbandons : Obligations.PendingAbandons := by
  refine ⟨fun i s row c hi hs hpend hp hrows => pending_variant hi hs hpend hp hrows,
    fun s hs hpend hm hv hd hrows => pending_upscale hs hpend hm hv hd hrows, fun s hpend hr hm => ?_,
    fun i s c w row m hi hs hpend hr hp hm => ?_, fun s w m hs hpend hr hn h hm => ?_,
    fun s c w row m hs hpend hr hp hmem ht hgo => ?_⟩
  · exact ⟨sample_abandons hpend hr, tonemap_abandons hpend hr, depth_abandons hpend hr, palette_abandons hpend hr,
      upscale_abandons hpend hr hm,
      dump_abandons_byte (buf := fun b => b.ibuf) (valid := fun v => v.ibuf) rfl hpend hr hm,
      dump_abandons_byte (buf := fun b => b.tbuf) (valid := fun v => v.tbuf) rfl hpend hr hm,
      dump_abandons_byte (buf := fun b => b.mbuf) (valid := fun v => v.mbuf) rfl hpend hr hm,
      dump_abandons_byte (buf := fun b => b.dbuf) (valid := fun v => v.dbuf) rfl hpend hr hm,
      fun hv => dump_abandons (w := 0x49) (valid := fun v => v.cbuf)
        (elem := fun s x y => rgbBytes (cpx s.bufs.cbuf x y)) rfl hpend hr hm hv fun _ _ _ _ => rfl⟩
  · obtain ⟨t, ht, hrun⟩ := variant_abandoned hi hs hpend hr hp hm
    have hlen : t.bufs.mbuf.length = min (m / 2 + 1) (workH s) := by
      obtain ⟨b, d, st, r, hlen, rfl⟩ := ht
      exact hlen
    exact ⟨_, hrun, ht.left.abandonedFor w, ht.left.lut, ht.left.mem, hlen, ht.left.rng⟩
  · obtain ⟨t, ht, hrun⟩ := exec_runFrame_abandons hs hpend hr hn h hm
    exact ⟨_, hrun, abandonedFor_abandoned ht.status, ht.lut, ht.rng, ht.mem⟩
  · have hpoints : tailPoints s = 2 * max 1 (2 * workH s) + 2 := by
      rw [tailPoints, stagePoints_two]
      omega
    rw [← hpoints]
    refine ⟨fun hm => ?_, fun Y hY hlo hhi => ?_⟩
    · obtain ⟨t, hleft, hrun⟩ := frameTail_abandons hs hpend hr hp hm
      exact ⟨_, hrun, hleft.abandonedFor w, hleft.lut, hleft.rng, hleft.dims, hleft.mem⟩
    · obtain ⟨st, r, t, hstoring, hrun⟩ := frameTail_upscale_abandons hs hpend hr hp hmem ht hgo hY hlo hhi
      obtain ⟨hst, hstored, hlut, hrng, hdims⟩ := hstoring.abandoned (w' := w)
      exact ⟨_, hrun, abandonedFor_abandoned hst, hlut, hrng, hdims, pixelRowsWritten_of_stored hstored⟩

end Sys2Proof.Machine
end

section
/-! PROOFS. What an instruction leaves unchanged when nothing lands on it (60_exceptions.md section 3, 10_state.md
section 6, 20_memory.md section 1), whether it completes, fails or is abandoned. -/

namespace Sys2Proof.Machine

/-! ### Frames -/

/-- A property of undisturbed states that the block's own progress does not touch. -/
structure Frame (P : State → Prop) : Prop where
  quiet : ∀ s, P s → s.script = []
  own : ∀ s st re va bu g df ph ra n, P s → P { s with
    status := st, report := re, valid := va, bufs := bu, rngState := g, diff := df, phase := ph, race := ra, free := n }

theorem Frame.bodies {P : State → Prop} (F : Frame P) : Bodies P P where
  land ws s h := by
    rw [land_quiet ws s (F.quiet s h)]
    exact h
  abandon s h := by
    rw [abandon_quiet s (F.quiet s h)]
    exact F.own s _ _ _ _ _ _ _ _ _ h
  row _ _ s h := F.own s _ _ _ _ _ _ _ _ _ h
  inner s _ _ _ h := F.own s _ _ _ _ _ _ _ _ _ h
  fails k a s h := by
    rw [raiseError_quiet k a s (F.quiet s h)]
    exact F.own s _ _ _ _ _ _ _ _ _ h
  completes s h := by
    rw [complete_quiet s (F.quiet s h)]
    exact F.own s _ _ _ _ _ _ _ _ _ h

/-- A variant keeps a frame. -/
theorem Frame.style {P : State → Prop} (F : Frame P) {i : Instr} {s t : State} (hi : isCommand i = false) (h : P s)
    (ht : exec i s = .next t) : P t := by
  obtain ⟨setUp, row, hv, he⟩ := runsVariant_of_not_isCommand hi s
  rw [he] at ht
  exact runStyle_passes (P := fun _ => P) (P1 := P) hv (fun _ => F.bodies.toPasses) F.bodies.toPasses
    (fun f => F.own s _ _ _ _ _ f _ _ _ h) (fun _ s f r h _ => F.own s _ _ _ _ _ _ _ _ _ h)
    (fun s h => F.own s _ _ _ _ _ _ _ _ _ h) F.bodies.completes (fun s h _ => F.own s _ _ _ _ _ _ _ _ _ h) ht

theorem phase_of_not_notMidFrame {s : State} (h : ¬NotMidFrame s) : ∃ w row, s.phase = .run w .depth row := by
  simpa [NotMidFrame] using h

/-! ### The configuration and the world outside -/

/-- What no instruction changes. -/
structure SameOutside (s t : State) : Prop where
  cfg : t.cfg = s.cfg
  irqEn : t.irqEn = s.irqEn
  pendCmd : t.pendCmd = s.pendCmd
  plat : t.plat = s.plat
  inReset : t.inReset = s.inReset
  script : t.script = []
  portLog : t.portLog = s.portLog

theorem frame_sameOutside (s : State) : Frame (SameOutside s) where
  quiet _ h := h.script
  own _ _ _ _ _ _ _ _ _ _ h := { h with }

theorem sameOutside_engineWrite {s t : State} (a : Nat) (v : Byte) (h : SameOutside s t) :
    SameOutside s (engineWrite a v t) := by
  obtain ⟨b, n, u, e⟩ := engineWrite_state a v t
  rw [e]
  exact { h with }

/-- Settles O37: the frame is kept by every command, by the tail of RUN_FRAME and by every variant. -/
theorem configFrame : Obligations.ConfigFrame := by
  intro i s t hs ht
  have F := frame_sameOutside s
  have h : SameOutside s s := ⟨rfl, rfl, rfl, rfl, rfl, hs, rfl⟩
  have hkept : SameOutside s t := by
    by_cases hi : isCommand i = true
    · by_cases hm : i = .runFrame ∧ ¬NotMidFrame s
      · obtain ⟨rfl, hm⟩ := hm
        obtain ⟨w, row, hp⟩ := phase_of_not_notMidFrame hm
        rw [exec, execRunFrame_of_midFrame hp] at ht
        exact sat_out (F.bodies.frameTail
          (writesKeep_of_engineWrite (fun a v _ _ => sameOutside_engineWrite a v) _ _) h) (fun _ h => h) ht
      · exact F.bodies.exec (fun _ _ h => { h with }) (fun _ h _ => { h with }) (fun _ h => { h with })
          (fun _ _ a v _ _ => sameOutside_engineWrite a v) hi (fun hr => by_contra fun hn => hm ⟨hr, hn⟩)
          (fun _ => { h with }) ht
    · exact F.style (Bool.not_eq_true _ ▸ hi) h ht
  exact ⟨hkept.cfg, hkept.irqEn, hkept.pendCmd, hkept.plat, hkept.inReset, hkept.script, hkept.portLog⟩

/-! ### The variants -/

/-- What no variant changes. -/
structure SameButMbuf (s t : State) : Prop where
  ibuf : t.bufs.ibuf = s.bufs.ibuf
  tbuf : t.bufs.tbuf = s.bufs.tbuf
  dbuf : t.bufs.dbuf = s.bufs.dbuf
  cbuf : t.bufs.cbuf = s.bufs.cbuf
  lut : t.lut = s.lut
  dims : t.dims = s.dims
  cfg : t.cfg = s.cfg
  snap : t.snap = s.snap
  irqEn : t.irqEn = s.irqEn
  report : t.report = s.report
  pendCmd : t.pendCmd = s.pendCmd
  styleUnk : t.status.styleUnk = s.status.styleUnk
  msizeFb : t.status.msizeFb = s.status.msizeFb
  err : t.status.err = s.status.err
  mem : t.mem = s.mem
  script : t.script = []

theorem passes_sameButMbuf (s : State) : Passes (SameButMbuf s) (SameButMbuf s) where
  land ws t h := by
    rw [land_quiet ws t h.script]
    exact h
  abandon t h := by
    rw [abandon_quiet t h.script]
    exact { h with }
  row _ _ _ h := { h with }

/-- Settles O36: the set-up, every row and the end of the stage, or the abandonment, keep it. -/
theorem styleFrame : Obligations.StyleFrame := by
  intro i s t hi hs ht
  obtain ⟨setUp, row, hv, he⟩ := runsVariant_of_not_isCommand hi s
  rw [he] at ht
  have C := passes_sameButMbuf s
  have h : SameButMbuf s s := ⟨rfl, rfl, rfl, rfl, rfl, rfl, rfl, rfl, rfl, rfl, rfl, rfl, rfl, rfl, rfl, hs⟩
  have hkept : SameButMbuf s t := runStyle_passes (P := fun _ => SameButMbuf s) (P1 := SameButMbuf s) hv (fun _ => C) C
    (fun _ => { h with }) (fun _ _ _ _ h _ => { h with }) (fun _ h => { h with })
    (fun u h => by
      rw [complete_quiet u h.script]
      exact { h with })
    (fun _ h _ => { h with }) ht
  exact ⟨hkept.ibuf, hkept.tbuf, hkept.dbuf, hkept.cbuf, hkept.lut, hkept.dims, hkept.cfg, hkept.snap, hkept.irqEn,
    hkept.report, hkept.pendCmd, hkept.styleUnk, hkept.msizeFb, hkept.err, fun a => by rw [hkept.mem]⟩

/-! ### Memory -/

/-- Memory is as it was. -/
theorem frame_mem (m : Memory) : Frame fun t => t.script = [] ∧ t.mem = m where
  quiet _ h := h.1
  own _ _ _ _ _ _ _ _ _ _ h := h

/-- Memory is as in `s` outside the `size` bytes at `dst`; the snapshot's destination and the dimensions are these. -/
structure WritesOnly (s : State) (dst : Word) (size : Nat) (t : State) : Prop where
  script : t.script = []
  base : t.snap.dstBase = dst
  dims : t.dims = s.dims
  wf : t.mem.wf = true
  outside : ∀ a, a < dst.toNat ∨ dst.toNat + size ≤ a → t.mem.read a = s.mem.read a

section
variable {s : State} {dst : Word} {size : Nat}

theorem frame_writesOnly : Frame (WritesOnly s dst size) where
  quiet _ h := h.script
  own _ _ _ _ _ _ _ _ _ _ h := { h with }

theorem WritesOnly.writeBytes {a : Nat} (bs : List Byte) (hlo : dst.toNat ≤ a) (hhi : a + bs.length ≤ dst.toNat + size)
    (hfit : a + bs.length ≤ 4294967296) {t : State} (h : WritesOnly s dst size t) :
    WritesOnly s dst size (writeBytes a bs t) := by
  induction bs generalizing a t with
  | nil => exact h
  | cons b bs ih =>
    rw [List.length_cons] at hhi hfit
    refine ih (by omega) (by omega) (by omega) ?_
    obtain ⟨v, n, u, e⟩ := engineWrite_state a b t
    rw [e]
    refine ⟨h.script, h.base, h.dims, write_wf t.mem a v h.wf (by omega), fun x hx => ?_⟩
    rw [read_write t.mem a x v h.wf, if_neg (by omega)]
    exact h.outside x hx

/-- The rows of a stage whose writes lie in the region. -/
theorem WritesOnly.keep {n : State → Nat} {writes : Nat → State → List PortWrite}
    (hw : ∀ y s1 t, WritesOnly s dst size s1 → WritesOnly s dst size t → y < n s1 → ∀ w ∈ writes y t,
      dst.toNat ≤ w.addr ∧ w.addr + w.bytes.length ≤ dst.toNat + size) :
    WritesKeep (WritesOnly s dst size) n writes := fun y s1 t h1 ht hy w hmem hfit _ hu =>
  have hin := hw y s1 t h1 ht hy w hmem
  hu.writeBytes w.bytes hin.1 hin.2 hfit

theorem length_upscaleBytes (s : State) (X Y : Nat) : (upscaleBytes s X Y).length = 4 := by
  rw [upscaleBytes_eq]
  simp

theorem upscale_writesOnly (hsize : size = 4 * (dimLo s.dims.src * dimHi s.dims.src)) :
    WritesKeep (WritesOnly s dst size) latH upscaleWrites := by
  refine WritesOnly.keep fun y s1 t h1 ht hy w hw => ?_
  obtain ⟨X, hX, rfl⟩ := List.mem_map.1 hw
  have hX := List.mem_range.1 hX
  rw [latW, ht.dims] at hX
  rw [latH, h1.dims] at hy
  have hlt := Nat.mul_le_mul_left 4 (place_lt hy hX)
  rw [Nat.mul_comm (dimHi _)] at hlt
  dsimp only
  rw [length_upscaleBytes, ht.base, latW, ht.dims]
  omega

theorem dump_writesOnly {e : Nat} {elem : State → Nat → Nat → List Byte} (hsize : size = e * (workW s * workH s)) :
    WritesKeep (WritesOnly s dst size) workH (dumpWrites e elem) := by
  refine WritesOnly.keep fun y s1 t h1 ht hy w hw => ?_
  obtain ⟨x, hx, hw⟩ := List.mem_flatMap.1 hw
  obtain ⟨k, hk, rfl⟩ := List.mem_map.1 hw
  have hx := List.mem_range.1 hx
  have hk := List.mem_range.1 hk
  rw [workW, ht.dims] at hx
  rw [workH, h1.dims] at hy
  have hlt := Nat.mul_le_mul_left e (place_lt hy hx)
  rw [Nat.mul_comm (dimHi _), Nat.succ_eq_add_one, Nat.mul_add, Nat.mul_one] at hlt
  rw [workW, workH] at hsize
  dsimp only
  rw [List.length_singleton, ht.base, workW, ht.dims]
  omega

end

/-- An instruction that writes no frame memory. -/
theorem exec_mem_of_no_write {i : Instr} {s t : State} (hi : writesFrame i = false ∨ i = .runFrame ∧ NotMidFrame s)
    (hs : s.script = []) (ht : exec i s = .next t) : t.mem = s.mem := by
  have F := frame_mem s.mem
  have hkept : t.script = [] ∧ t.mem = s.mem := by
    by_cases hc : isCommand i = true
    · refine F.bodies.exec (fun _ _ h => h) (fun _ h _ => h) (fun _ h => h) (fun hw hr => ?_) hc (fun hr => ?_)
        (fun _ => ⟨hs, rfl⟩) ht
      · rcases hi with hn | ⟨hr', -⟩
        · exact absurd hw (by simp [hn])
        · exact absurd hr' hr
      · rcases hi with hn | ⟨-, hm⟩
        · subst hr
          cases hn
        · exact hm
    · exact F.style (Bool.not_eq_true _ ▸ hc) ⟨hs, rfl⟩ ht
  exact hkept.2

/-- Settles O38: the writes of each command lie in its destination region. -/
theorem memoryFrame : Obligations.MemoryFrame := by
  intro i s t hs hm ht same
  have hstart (size : Nat) (w : Word) : WritesOnly s s.cfg.dstBase size (accept w s) :=
    ⟨hs, rfl, rfl, hm, fun _ _ => rfl⟩
  have hdump {w : Word} {valid : Valid → Bool} {e size : Nat} {elem : State → Nat → Nat → List Byte}
      (hsize : size = e * (workW s * workH s)) (hrun : runDump w valid e elem s = .next t) :
      same s.cfg.dstBase.toNat size :=
    (frame_writesOnly.bodies.runDump (dump_writesOnly hsize) (hstart size w) hrun).outside
  refine ⟨fun hi a => by rw [exec_mem_of_no_write (.inl hi) hs ht], fun hi => ?_, fun hi => ?_, fun hi => ?_,
    fun hi hn a => by rw [exec_mem_of_no_write (.inr ⟨hi, hn⟩) hs ht], fun hi hn => ?_⟩
  · subst hi
    exact (frame_writesOnly.bodies.execUpscale (upscale_writesOnly rfl) (hstart _ 0x08) ht).outside
  · simp only [List.mem_cons, List.not_mem_nil, or_false] at hi
    rcases hi with rfl | rfl | rfl | rfl <;> exact hdump (e := 1) (Nat.one_mul _).symm ht
  · subst hi
    exact hdump (e := 3) (Nat.mul_assoc _ _ _) ht
  · subst hi
    obtain ⟨w, row, hp⟩ := phase_of_not_notMidFrame hn
    rw [exec, execRunFrame_of_midFrame hp] at ht
    exact (sat_out (frame_writesOnly.bodies.frameTail (upscale_writesOnly rfl)
      (⟨hs, rfl, rfl, hm, fun _ _ => rfl⟩ : WritesOnly s s.snap.dstBase _ s)) (fun _ h => h) ht).outside

end Sys2Proof.Machine
end

section
/-! PROOFS. The races on memory (20_memory.md R96, R98, R103, R106): every value that a race may give is among those the
rule lists. -/

namespace Sys2Proof.Machine

/-! ### The record of a race -/

theorem newValues_cons (w : Written) (ws : List Written) (a : Nat) :
    newValues (w :: ws) a = if w.addr = a then w.new :: newValues ws a else newValues ws a := by
  by_cases h : w.addr = a <;> simp [newValues, h]

theorem oldValues_cons (w : Written) (ws : List Written) (a : Nat) :
    oldValues (w :: ws) a = if w.addr = a then w.old :: oldValues ws a else oldValues ws a := by
  by_cases h : w.addr = a <;> simp [oldValues, h]

theorem recorded_append (cells cells' : List Host.Cell) (a : Nat) :
    recorded (cells ++ cells') a = recorded cells a ++ recorded cells' a := by
  simp [recorded]

theorem recorded_pair (a x : Nat) (v w : Byte) : recorded [(a, v), (a, w)] x = if x = a then [v, w] else [] := by
  by_cases h : x = a
  · simp [recorded, h]
  · simp [recorded, h, Ne.symm h]

theorem drawAmong_race (v : Byte) (c : List Byte) (s : State) : (drawAmong v c s).2.race = s.race := by
  rw [drawAmong_state]

/-- A draw among the values that `l` gives, where there are any. -/
theorem drawAmong_ite_cases (v : Byte) (l c : List Byte) (s : State) :
    (drawAmong v (if l.isEmpty then [] else c) s).1 = v ∨ (drawAmong v (if l.isEmpty then [] else c) s).1 ∈ c := by
  by_cases hl : l.isEmpty = true
  · rw [if_pos hl]
    exact .inl rfl
  · rw [if_neg hl]
    exact (drawAmong_cases v c s).imp_left And.right

/-! ### The engine's accesses -/

/-- The byte that an engine write leaves (R106). -/
def engineByte (a : Nat) (v : Byte) (s : State) : Byte :=
  (drawAmong v (if (recorded s.race.touched a).isEmpty then [] else [v, s.mem.read a]) s).1

theorem engineWrite_mem (a : Nat) (v : Byte) (s : State) :
    (engineWrite a v s).mem = s.mem.write a (engineByte a v s) :=
  congrArg (fun m => Memory.write m a (engineByte a v s)) (drawAmong_mem _ _ s)

theorem engineWrite_race (a : Nat) (v : Byte) (s : State) :
    (engineWrite a v s).race = { s.race with wrote := ⟨a, s.mem.read a, v⟩ :: s.race.wrote } :=
  congrArg (fun r : Race => { r with wrote := ⟨a, s.mem.read a, v⟩ :: r.wrote }) (drawAmong_race _ _ s)

theorem engineByte_cases (a : Nat) (v : Byte) (s : State) : engineByte a v s = v ∨ engineByte a v s = s.mem.read a := by
  rcases drawAmong_ite_cases v (recorded s.race.touched a) [v, s.mem.read a] s with h | h
  · exact .inl h
  · simpa [engineByte] using h

theorem engineByte_of_unrecorded {a : Nat} {s : State} (v : Byte) (h : recorded s.race.touched a = []) :
    engineByte a v s = v := by
  rw [engineByte, h]
  rfl

/-! ### Another agent's accesses -/

theorem otherWrite_of_busy {s : State} (a : Nat) (v : Byte) (h : busy s = true) :
    (otherWrite a v s).mem = s.mem.write a
        (drawAmong v (if (newValues s.race.wrote a).isEmpty then [] else v :: newValues s.race.wrote a) s).1
      ∧ (otherWrite a v s).race = { s.race with touched := s.race.touched ++ [(a, s.mem.read a), (a, v)] } := by
  rw [otherWrite, if_pos h]
  exact ⟨congrArg (fun m => Memory.write m a _) (drawAmong_mem _ _ s),
    congrArg (fun r : Race => { r with touched := r.touched ++ [(a, s.mem.read a), (a, v)] }) (drawAmong_race _ _ s)⟩

theorem otherWrite_of_idle {s : State} (a : Nat) (v : Byte) (h : busy s = false) :
    otherWrite a v s = { s with mem := s.mem.write a v } := by
  rw [otherWrite, h]
  rfl

theorem otherRead_of_idle {s : State} (flight : List Byte) (a : Nat) (h : busy s = false) :
    otherRead flight a s = (s.mem.read a, s) := by
  rw [otherRead, h]
  rfl

/-- What another agent may read: the byte in memory, or one of the running command's values there. -/
theorem otherRead_cases (flight : List Byte) (a : Nat) (s : State) :
    (otherRead flight a s).1 = s.mem.read a
      ∨ (otherRead flight a s).1 ∈ oldValues s.race.wrote a ++ newValues s.race.wrote a ++ flight := by
  by_cases h : busy s = true
  · rw [otherRead, if_pos h]
    rcases drawAmong_ite_cases (s.mem.read a) (oldValues s.race.wrote a ++ newValues s.race.wrote a ++ flight)
      (s.mem.read a :: (oldValues s.race.wrote a ++ newValues s.race.wrote a ++ flight)) s with h | h
    · exact .inl h
    · exact (List.mem_cons.1 h).imp_right id
  · rw [otherRead_of_idle flight a (Bool.not_eq_true _ ▸ h)]
    exact .inl rfl

theorem oldValues_eq_nil {ws : List Written} {a : Nat} (h : newValues ws a = []) : oldValues ws a = [] := by
  rw [newValues, List.map_eq_nil_iff] at h
  rw [oldValues, h]
  rfl

/-! ### The write in flight -/

theorem inFlight_cases {a : Nat} {ws : List PortWrite} {s : State} {b : Byte} (h : b ∈ inFlight ws a s) :
    ∃ w rest, ws = w :: rest ∧ refuses s w.addr w.bytes.length .write = false ∧ w.addr ≤ a
      ∧ a < w.addr + w.bytes.length ∧ b = w.bytes.getD (a - w.addr) 0 := by
  cases ws with
  | nil => exact absurd h List.not_mem_nil
  | cons w rest =>
    rw [inFlight] at h
    split at h
    next hc =>
      rw [goesThrough, Bool.and_eq_true, Bool.and_eq_true, Bool.and_eq_true, decide_eq_true_iff, decide_eq_true_iff,
        Bool.not_eq_true'] at hc
      obtain ⟨⟨⟨-, hgo⟩, hlo⟩, hhi⟩ := hc
      exact ⟨w, rest, rfl, hgo, hlo, of_decide_eq_true hhi, List.mem_singleton.1 h⟩
    next => exact absurd h List.not_mem_nil

/-- Settles O60: each access in turn. -/
theorem racesAdmitted : Obligations.RacesAdmitted := by
  refine ⟨fun a s => ?_, fun a v s hm => ?_, fun a v s hm => ?_, fun _ _ => rfl, fun a flight s => ?_,
    fun a ws s b => inFlight_cases⟩
  · rcases drawAmong_cases (s.mem.read a) (recorded s.race.touched a) s with ⟨-, h⟩ | h
    · exact .inl h
    · exact .inr h
  · rw [engineWrite_mem, engineWrite_race, read_write s.mem a a _ hm, if_pos rfl, newValues_cons, oldValues_cons,
      if_pos rfl, if_pos rfl]
    exact ⟨engineByte_cases a v s, engineByte_of_unrecorded v, rfl, rfl, rfl⟩
  · by_cases hb : busy s = true
    · obtain ⟨hmem, hrace⟩ := otherWrite_of_busy a v hb
      rw [hmem, hrace, read_write s.mem a a _ hm, if_pos rfl]
      refine ⟨?_, fun h => by rw [h]; rfl, rfl, fun _ x => ?_, fun h => absurd hb (by simp [h])⟩
      · rcases drawAmong_ite_cases v (newValues s.race.wrote a) (v :: newValues s.race.wrote a) s with h | h
        · exact .inl h
        · exact List.mem_cons.1 h
      · rw [recorded_append, recorded_pair]
    · have hidle : busy s = false := Bool.not_eq_true _ ▸ hb
      rw [otherWrite_of_idle a v hidle]
      dsimp only
      rw [read_write s.mem a a _ hm, if_pos rfl]
      exact ⟨.inl rfl, fun _ => rfl, rfl, fun h => absurd h hb, fun _ => ⟨rfl, rfl⟩⟩
  · refine ⟨?_, fun hn hf => ?_, fun hb => by rw [otherRead_of_idle flight a hb]⟩
    · rcases otherRead_cases flight a s with h | h
      · exact .inl h
      · rw [List.mem_append, List.mem_append, or_assoc] at h
        exact .inr h
    · rcases otherRead_cases flight a s with h | h
      · exact h
      · rw [hn, hf, oldValues_eq_nil hn] at h
        exact absurd h List.not_mem_nil

end Sys2Proof.Machine
end

section
/-! PROOFS. The register window (10_state.md section 3 and section 6): which offsets hold a register, what a register
reads as after a write, and what the port answers. -/

namespace Sys2Proof.Machine

/-! ### Offsets -/

theorem toNat_regOffset (r : Reg) : (BitVec.ofNat 12 (regOffset r)).toNat = regOffset r := by
  cases r with
  | pal k => revert k; decide
  | lutWin j => revert j; decide
  | _ => rfl

/-- The window is read back from its offsets. -/
theorem regAt_regOffset (r : Reg) : regAt (regOffset r) = some r := by
  cases r with
  | pal k => revert k; decide
  | lutWin j => revert j; decide
  | _ => rfl

theorem portTakes_regOffset (r : Reg) : portTakes (BitVec.ofNat 12 (regOffset r)) 4 = true := by
  cases r with
  | pal k => revert k; decide
  | lutWin j => revert j; decide
  | _ => rfl

/-- R86: no register at the offsets between the named ones and the windows. -/
theorem regAt_reserved {n : Nat}
    (hn : n = 0x038 ∨ n = 0x03C ∨ 0x080 ≤ n ∧ n < 0x100 ∨ 0x140 ≤ n ∧ n < 0x200 ∨ 0x300 ≤ n) : regAt n = none := by
  unfold regAt
  split
  case h_31 =>
    clear * - hn
    rw [if_neg (by omega), if_neg (by omega)]
  all_goals omega

/-! ### The port at an offset -/

theorem portWrite_refused {off : BitVec 12} {nbytes : Nat} (v : Word) (s : State) (h : portTakes off nbytes = false) :
    portWrite off nbytes v s = answer .error s := by
  simp [portWrite, h]

theorem portRead_refused {off : BitVec 12} {nbytes : Nat} (s : State) (h : portTakes off nbytes = false) :
    portRead off nbytes s = answer .error s := by
  simp [portRead, h]

theorem portWrite_ignored {off : BitVec 12} (v : Word) (s : State) (ht : portTakes off 4 = true)
    (h : s.inReset = true ∨ regAt off.toNat = none) : portWrite off 4 v s = s := by
  rcases h with h | h <;> simp [portWrite, ht, h]

theorem portRead_zero {off : BitVec 12} (s : State) (ht : portTakes off 4 = true)
    (h : s.inReset = true ∨ regAt off.toNat = none) : portRead off 4 s = answer (.data 0) s := by
  rcases h with h | h <;> simp [portRead, ht, h]

theorem portTakes_aligned {off : BitVec 12} (h : off.toNat % 4 = 0) : portTakes off 4 = true := by
  simp [portTakes, h]

/-- Settles O51: R85 is `portTakes`, R86 the offsets without a register, and R440 the same answer for every offset. -/
theorem portErrors : Obligations.PortErrors := by
  refine ⟨fun off nbytes v s h => ?_, fun off v s ha h => ?_, fun off v s ha hr => ?_⟩
  · have ht : portTakes off nbytes = false := by
      simp only [portTakes, Bool.and_eq_false_iff, decide_eq_false_iff_not]
      exact h
    exact ⟨portWrite_refused v s ht, portRead_refused s ht⟩
  · have hnone : regAt off.toNat = none := by
      apply regAt_reserved
      simp only [BitVec.le_def, BitVec.lt_def, ← BitVec.toNat_inj] at h
      exact h
    have ht := portTakes_aligned ha
    exact ⟨portWrite_ignored v s ht (.inr hnone), portRead_zero s ht (.inr hnone)⟩
  · have ht := portTakes_aligned ha
    exact ⟨portWrite_ignored v s ht (.inl hr), portRead_zero s ht (.inl hr)⟩

end Sys2Proof.Machine
end

section
/-! PROOFS. The registers (10_state.md R34 to R73, R88): what a write leaves in each, and what each reads as. -/

namespace Sys2Proof.Machine

section Cfg
variable (r : Reg) (v : Word) (c : Cfg)

/-! ### A configuration write, field by field -/

theorem cfgWrite_rngFree : (cfgWrite r v c).rngFree = if r = .ctrl then v.getLsbD 0 else c.rngFree := by
  cases r <;> rfl

theorem cfgWrite_srcBase : (cfgWrite r v c).srcBase = if r = .srcBase then alignBase v else c.srcBase := by
  cases r <;> rfl

theorem cfgWrite_srcDim : (cfgWrite r v c).srcDim = if r = .srcDim then v else c.srcDim := by
  cases r <;> rfl

theorem cfgWrite_dstBase : (cfgWrite r v c).dstBase = if r = .dstBase then alignBase v else c.dstBase := by
  cases r <;> rfl

theorem cfgWrite_scale : (cfgWrite r v c).scale = if r = .scale then v.setWidth 16 else c.scale := by
  cases r <;> rfl

theorem cfgWrite_contrast :
    (cfgWrite r v c).tone.contrast = if r = .contrast then v.setWidth 16 else c.tone.contrast := by
  cases r <;> rfl

theorem cfgWrite_midtone :
    (cfgWrite r v c).tone.midtone = if r = .midtone then v.setWidth 16 else c.tone.midtone := by
  cases r <;> rfl

theorem cfgWrite_highlight :
    (cfgWrite r v c).tone.highlight = if r = .highlight then v.setWidth 16 else c.tone.highlight := by
  cases r <;> rfl

theorem cfgWrite_thresh : (cfgWrite r v c).tone.thresh = if r = .thresh then v.setWidth 8 else c.tone.thresh := by
  cases r <;> rfl

theorem cfgWrite_invert : (cfgWrite r v c).tone.invert = if r = .invert then v.getLsbD 0 else c.tone.invert := by
  cases r <;> rfl

theorem cfgWrite_style : (cfgWrite r v c).style = if r = .style then v.setWidth 8 else c.style := by
  cases r <;> rfl

theorem cfgWrite_msize : (cfgWrite r v c).msize = if r = .msize then v.setWidth 8 else c.msize := by
  cases r <;> rfl

theorem cfgWrite_pscale : (cfgWrite r v c).pscale = if r = .pscale then v.setWidth 16 else c.pscale := by
  cases r <;> rfl

theorem cfgWrite_bleed : (cfgWrite r v c).bleed = if r = .bleed then v.setWidth 16 else c.bleed := by
  cases r <;> rfl

theorem cfgWrite_depth : (cfgWrite r v c).depth = if r = .depth then v.setWidth 16 else c.depth := by
  cases r <;> rfl

theorem cfgWrite_rngSeed :
    (cfgWrite r v c).rngSeed = if r = .rngSeed then (if v = 0 then 1 else v) else c.rngSeed := by
  cases r <;> rfl

theorem cfgWrite_palCount : (cfgWrite r v c).palCount = if r = .palCount then v.setWidth 8 else c.palCount := by
  cases r <;> rfl

theorem cfgWrite_pal (k : Fin 16) :
    (cfgWrite r v c).pal.get k = if r = .pal k then v.setWidth 24 else c.pal.get k := by
  cases r with
  | pal j =>
    rw [Vector.get_eq_getElem, Vector.get_eq_getElem]
    simp only [cfgWrite, Vector.getElem_set, Reg.pal.injEq, Fin.ext_iff]
  | _ => rfl

end Cfg

/-! ### The words of the registers' fields -/

/-- A field of `n` bits reads back the low `n` bits of what was written. -/
theorem setWidth_setWidth_eq_and (n : Nat) (v : Word) :
    (v.setWidth n).setWidth 32 = v &&& (BitVec.allOnes n).setWidth 32 := by
  ext i hi
  simp only [BitVec.getElem_setWidth, BitVec.getLsbD_setWidth, BitVec.getElem_and, BitVec.getLsbD_allOnes,
    BitVec.getLsbD_eq_getElem hi, Bool.and_comm]

theorem setWidth_ofBool_eq_and (v : Word) : (BitVec.ofBool (v.getLsbD 0)).setWidth 32 = v &&& 1 := by
  ext i hi
  rcases i with _ | i <;> simp [BitVec.getLsbD_eq_getElem]

theorem getLsbD_seven : ∀ i < 32, (7 : Word).getLsbD i = decide (i < 3) := by
  decide

theorem irqEnWord_irqEnOf (v : Word) : irqEnWord (irqEnOf v) = v &&& 7 := by
  apply BitVec.eq_of_getLsbD_eq
  intro i hi
  rw [irqEnWord, getLsbD_wordOfBits _ (by simp), BitVec.getLsbD_and, getLsbD_seven i hi]
  rcases i with _ | _ | _ | i <;> simp [irqEnOf]

/-- R52: BUF_VALID and R48: IRQ_EN are made of bits; this is the word of six of them, each shifted to its place. -/
theorem wordOfBits_six : ∀ a b c d e f : Bool, BitVec.ofNat 32 (wordOfBits [a, b, c, d, e, f])
    = ((BitVec.ofBool a).setWidth 32 <<< 0 ||| (BitVec.ofBool b).setWidth 32 <<< 1
      ||| (BitVec.ofBool c).setWidth 32 <<< 2 ||| (BitVec.ofBool d).setWidth 32 <<< 3
      ||| (BitVec.ofBool e).setWidth 32 <<< 4 ||| (BitVec.ofBool f).setWidth 32 <<< 5 : Word) := by
  decide

/-- R49: CODE and OP side by side. -/
theorem errCodeWord_eq (r : Report) : errCodeWord r = 0#20 ++ r.op ++ r.code := by
  apply BitVec.eq_of_toNat_eq
  have hcode := r.code.isLt
  have hop := r.op.isLt
  rw [errCodeWord, BitVec.toNat_append, BitVec.toNat_append, BitVec.toNat_ofNat, BitVec.toNat_ofNat,
    Nat.zero_mod, Nat.zero_shiftLeft, Nat.zero_or, ← Nat.shiftLeft_add_eq_or_of_lt hcode, Nat.shiftLeft_eq]
  omega

theorem toNat_append_byte {n : Nat} (x : BitVec n) (b : Byte) : (x ++ b).toNat = x.toNat * 256 + b.toNat := by
  rw [BitVec.toNat_append, ← Nat.shiftLeft_add_eq_or_of_lt b.isLt, Nat.shiftLeft_eq]

theorem getD_toList_eq_get {α : Type} (a : α) (t : Vector α 256) (j : Fin 64) (b : Nat) (hb : b < 4) :
    t.toList.getD (4 * j.val + b) a = t.get (Fin.ofNat 256 (4 * j.val + b)) := by
  have hj : 4 * j.val + b < 256 := by omega
  rw [List.getD_eq_getElem _ _ (by simpa using hj), Vector.getElem_toList, Vector.get_eq_getElem]
  simp only [Fin.val_ofNat, Nat.mod_eq_of_lt hj]

/-- R73: the four entries of a word of the LUT window, the lowest in the low byte. -/
theorem lutWinWord_eq (ram : Vector Byte 256) (j : Fin 64) :
    lutWinWord ram j.val = ram.get (Fin.ofNat 256 (4 * j.val + 3)) ++ ram.get (Fin.ofNat 256 (4 * j.val + 2))
      ++ ram.get (Fin.ofNat 256 (4 * j.val + 1)) ++ ram.get (Fin.ofNat 256 (4 * j.val + 0)) := by
  apply BitVec.eq_of_toNat_eq
  simp only [lutWinWord, getD_toList_eq_get, toNat_append_byte, BitVec.toNat_ofNat, Nat.reduceLT]
  omega

/-! ### What a register reads as -/

/-- R88: with the engine IDLE the latched dimensions read as they are. -/
theorem drawDims_idle (f : Dims → Word) {s : State} (hb : busy s = false) : drawDims f s = (f s.dims, s) := by
  simp [drawDims, hb]

theorem drawDims_fst (f : Dims → Word) (s : State) :
    (drawDims f s).1 = if busy s = true ∧ Config.freeNat s.free % 2 ≠ 0 then f s.dimsBefore else f s.dims := by
  unfold drawDims
  split_ifs <;> simp_all

theorem drawDims_fixed (f : Dims → Word) (c : Cfg) (e : IrqEn) (s : State) :
    (drawDims f { s with cfg := c, irqEn := e }).1 = (drawDims f s).1 :=
  (drawDims_fst f _).trans (drawDims_fst f s).symm

/-- A register that no write sets, but BUF_VALID, reads the same whatever the configuration and IRQ_EN hold. -/
theorem regRead_of_fixed {r : Reg} (hm : writeMask r = none) (hb : r ≠ .bufValid) (c : Cfg) (e : IrqEn) (s : State) :
    (regRead r { s with cfg := c, irqEn := e }).1 = (regRead r s).1 := by
  cases r
  case bufValid => exact absurd rfl hb
  case workDim => exact drawDims_fixed _ c e s
  case latSrcDim => exact drawDims_fixed _ c e s
  case latScale => exact drawDims_fixed _ c e s
  case lutWin j =>
    simp only [regRead]
    have hbusy : busy { s with cfg := c, irqEn := e } = busy s := rfl
    rw [hbusy]
    split <;> rfl
  all_goals first
    | rfl
    | exact absurd hm (by simp [writeMask])

/-- A configuration write is seen by no register but its own and BUF_VALID. -/
theorem regRead_cfgWrite_other {r r' : Reg} (v : Word) (s : State) (h : r' ≠ r) (hb : r' ≠ .bufValid) :
    (regRead r' { s with cfg := cfgWrite r v s.cfg }).1 = (regRead r' s).1 := by
  cases hm : writeMask r' with
  | none => exact regRead_of_fixed hm hb _ s.irqEn s
  | some m =>
    cases r' <;> simp [writeMask] at hm <;>
      simp only [regRead, cfgWrite_rngFree, cfgWrite_srcBase, cfgWrite_srcDim, cfgWrite_dstBase, cfgWrite_scale,
        cfgWrite_contrast, cfgWrite_midtone, cfgWrite_highlight, cfgWrite_thresh, cfgWrite_invert, cfgWrite_style,
        cfgWrite_msize, cfgWrite_pscale, cfgWrite_bleed, cfgWrite_depth, cfgWrite_rngSeed, cfgWrite_palCount,
        cfgWrite_pal, if_neg h.symm]

/-- A write of IRQ_EN is seen by no other register. -/
theorem regRead_irqEn_other {r' : Reg} (e : IrqEn) (s : State) (h : r' ≠ .irqEn) (hb : r' ≠ .bufValid) :
    (regRead r' { s with irqEn := e }).1 = (regRead r' s).1 := by
  cases hm : writeMask r' with
  | none => exact regRead_of_fixed hm hb s.cfg e s
  | some m => cases r' <;> simp [writeMask] at hm h <;> rfl

/-- A write sets the bits its register has; RNG_SEED's 0 is apart. -/
theorem regRead_regWrite_self {r : Reg} {m : Word} (hm : writeMask r = some m) (hr : r ≠ .rngSeed) (v : Word)
    (s : State) : (regRead r (regWrite r v s)).1 = v &&& m := by
  cases r <;> simp only [writeMask, reduceCtorEq, Option.some.injEq] at hm <;> subst hm
  case rngSeed => exact absurd rfl hr
  case irqEn => exact irqEnWord_irqEnOf v
  case srcBase | dstBase => rfl
  case srcDim => exact BitVec.and_allOnes.symm
  case ctrl | invert => exact setWidth_ofBool_eq_and v
  case scale | contrast | midtone | highlight | pscale | bleed | depth => exact setWidth_setWidth_eq_and 16 v
  case thresh | style | msize | palCount => exact setWidth_setWidth_eq_and 8 v
  case pal k =>
    simp only [regRead, regWrite, cfgWrite_pal, if_true]
    exact setWidth_setWidth_eq_and 24 v

theorem regRead_regWrite_rngSeed (v : Word) (s : State) :
    (regRead .rngSeed (regWrite .rngSeed v s)).1 = if v = 0 then 1 else v := rfl

/-- The two kinds of register a write sets: IRQ_EN, and the configuration with CTRL. -/
theorem regWrite_of_writable {r : Reg} {m : Word} (hm : writeMask r = some m) (hr : r ≠ .irqEn) (v : Word)
    (s : State) : regWrite r v s = { s with cfg := cfgWrite r v s.cfg } := by
  cases r
  case irqEn => exact absurd rfl hr
  case cmd | status => exact absurd hm (by simp [writeMask])
  all_goals rfl

theorem regRead_regWrite_other {r r' : Reg} {m : Word} (hm : writeMask r = some m) (v : Word) (s : State)
    (h : r' ≠ r) (hb : r' ≠ .bufValid) : (regRead r' (regWrite r v s)).1 = (regRead r' s).1 := by
  by_cases hr : r = .irqEn
  · subst hr
    exact regRead_irqEn_other _ s h hb
  · rw [regWrite_of_writable hm hr]
    exact regRead_cfgWrite_other v s h hb

/-- A write of a read-only register changes nothing. -/
theorem regWrite_of_readOnly {r : Reg} (hm : writeMask r = none) (hc : r ≠ .cmd) (hs : r ≠ .status) (v : Word)
    (s : State) : regWrite r v s = s := by
  cases r
  case cmd => exact absurd rfl hc
  case status => exact absurd rfl hs
  all_goals first
    | rfl
    | exact absurd hm (by simp [writeMask])

/-- Only the latched dimensions and the LUT window draw when they are read. -/
theorem regRead_snd {r : Reg} (h : r = .status ∨ (writeMask r).isSome = true) (s : State) : (regRead r s).2 = s := by
  cases r
  case workDim | latSrcDim | latScale | lutWin => simp [writeMask] at h
  all_goals rfl

/-! ### The port -/

theorem portRead_regOffset (r : Reg) {s : State} (hr : s.inReset = false) :
    portRead (BitVec.ofNat 12 (regOffset r)) 4 s = answer (.data (regRead r s).1) (regRead r s).2 :=
  portRead_at hr (portTakes_regOffset r) (by rw [toNat_regOffset, regAt_regOffset])

theorem portWrite_regOffset (r : Reg) (v : Word) {s : State} (hr : s.inReset = false) :
    portWrite (BitVec.ofNat 12 (regOffset r)) 4 v s = regWrite r v s :=
  portWrite_at v hr (portTakes_regOffset r) (by rw [toNat_regOffset, regAt_regOffset])

/-- What a port read answers, from what the register reads as. -/
theorem portRead_answers {r : Reg} {v : Word} {s t : State} (hr : s.inReset = false) (h : regRead r s = (v, t)) :
    portRead (BitVec.ofNat 12 (regOffset r)) 4 s = answer (.data v) t := by
  rw [portRead_regOffset r hr, h]

theorem portRead_draws {r : Reg} {v : Word} {n : Nat} {s : State} (hr : s.inReset = false)
    (h : regRead r s = (v, { s with free := n })) : portRead (BitVec.ofNat 12 (regOffset r)) 4 s
      = { s with portLog := .data v :: s.portLog, free := n } :=
  portRead_answers hr h

theorem regRead_lutWin_idle (j : Fin 64) {s : State} (hb : busy s = false) :
    regRead (.lutWin j) s = (lutWinWord s.lut.ram j.val, s) := by
  simp [regRead, hb]

theorem regRead_lutWin_busy (j : Fin 64) {s : State} (hb : busy s = true) :
    regRead (.lutWin j) s = (Config.freeWord s.free, { s with free := s.free + 1 }) := by
  simp [regRead, hb]

/-- R88: with the engine RUNNING a latched dimension reads as the new or as the previous value. -/
theorem drawDims_busy (f : Dims → Word) {s : State} (hb : busy s = true) :
    ∃ v, drawDims f s = (v, { s with free := s.free + 1 }) ∧ (v = f s.dims ∨ v = f s.dimsBefore) := by
  refine ⟨(drawDims f s).1, ?_, ?_⟩
  · simp [drawDims, hb]
  · rw [drawDims_fst]
    split
    · exact .inr rfl
    · exact .inl rfl

theorem setWidth_eq_zero_append (x : BitVec 16) : x.setWidth 32 = 0#16 ++ x := by
  apply BitVec.eq_of_toNat_eq
  have hx := x.isLt
  rw [BitVec.toNat_append, BitVec.toNat_setWidth, Nat.mod_eq_of_lt (by omega)]
  simp

/-- Settles O50: R39's writes are `regWrite`, seen in its own register through the mask and in no other; the port
answers `regRead`, which is written out for each read-only register. -/
theorem registerReadback : Obligations.RegisterReadback := by
  refine ⟨fun r v s hr => ⟨fun m hm => ⟨?_, fun r' hne hb => ?_⟩, fun hm hc hs => ?_⟩, fun s hr => ?_⟩
  · rw [portWrite_regOffset r v hr]
    by_cases hseed : r = .rngSeed
    · subst hseed
      obtain rfl := Option.some.inj hm
      rw [regRead_regWrite_rngSeed]
      simp only [true_and]
      split
      · rfl
      · exact BitVec.and_allOnes.symm
    · rw [if_neg fun h => hseed h.1, regRead_regWrite_self hm hseed]
  · rw [portWrite_regOffset r v hr]
    exact regRead_regWrite_other hm v s hne hb
  · exact (portWrite_regOffset r v hr).trans (regWrite_of_readOnly hm hc hs v s)
  · refine ⟨fun r h => portRead_answers hr (Prod.ext rfl (regRead_snd h s)), portRead_answers hr rfl,
      portRead_answers hr rfl, portRead_answers hr rfl, portRead_answers hr rfl, portRead_answers hr rfl,
      portRead_answers hr (Prod.ext (errCodeWord_eq s.report) rfl), portRead_answers hr rfl,
      portRead_answers hr (Prod.ext (wordOfBits_six _ _ _ _ _ _) rfl),
      fun hb => ⟨portRead_answers hr (drawDims_idle _ hb), portRead_answers hr (drawDims_idle _ hb), ?_,
        fun j => portRead_answers hr ((regRead_lutWin_idle j hb).trans (Prod.ext (lutWinWord_eq _ j) rfl))⟩,
      fun hb => ⟨?_, ?_, ?_, fun j => ?_⟩⟩
    · rw [← setWidth_eq_zero_append]
      exact portRead_answers (r := .latScale) hr (drawDims_idle (fun d => d.scale.setWidth 32) hb)
    · obtain ⟨v, hv, hvalue⟩ := drawDims_busy (fun d => d.work) hb
      exact ⟨v, _, portRead_draws (r := .workDim) hr hv, hvalue⟩
    · obtain ⟨v, hv, hvalue⟩ := drawDims_busy (fun d => d.src) hb
      exact ⟨v, _, portRead_draws (r := .latSrcDim) hr hv, hvalue⟩
    · obtain ⟨v, hv, hvalue⟩ := drawDims_busy (fun d => d.scale.setWidth 32) hb
      rw [setWidth_eq_zero_append, setWidth_eq_zero_append] at hvalue
      exact ⟨v, _, portRead_draws (r := .latScale) hr hv, hvalue⟩
    · exact ⟨_, _, portRead_draws hr (regRead_lutWin_busy j hb), trivial⟩

end Sys2Proof.Machine
end

section
/-! PROOFS. Rounding of binary64 (00_scope.md R17): `fRound` is nearest with ties to even, the root is rounded so, and
the remainder is exact. -/

namespace Sys2Proof.Machine

/-! ### Magnitudes and their neighbours -/

theorem fUnits_le_of_le {m n : Nat} (h : m ≤ n) : fUnits m ≤ fUnits n := fUnits_strictMono.monotone h

/-- A magnitude as a 53-bit integer and a place; at the lowest place the integer may be smaller. -/
theorem exists_scaled (m : Nat) :
    ∃ k n, n < 2 ^ 53 ∧ (k = 0 ∨ 2 ^ 52 ≤ n) ∧ m = k * 2 ^ 52 + n ∧ fUnits m = n * 2 ^ k := by
  by_cases hm : m < 2 ^ 52
  · exact ⟨0, m, by omega, .inl rfl, by omega, by rw [fUnits_subnormal hm, Nat.pow_zero, Nat.mul_one]⟩
  · obtain ⟨k, n, hlo, hhi, rfl⟩ : ∃ k n, 2 ^ 52 ≤ n ∧ n < 2 ^ 53 ∧ m = k * 2 ^ 52 + n :=
      ⟨m / 2 ^ 52 - 1, m % 2 ^ 52 + 2 ^ 52, by omega, by omega, by omega⟩
    exact ⟨k, n, hhi, .inr hlo, rfl, fUnits_normal k hlo hhi.le⟩

/-- The units of a 53-bit integer at a place, where the integer is normal or the place is the lowest. -/
theorem fUnits_scaled {k n : Nat} (hn : n ≤ 2 ^ 53) (hk : k = 0 ∨ 2 ^ 52 ≤ n) :
    fUnits (k * 2 ^ 52 + n) = n * 2 ^ k := by
  by_cases hlo : 2 ^ 52 ≤ n
  · exact fUnits_normal k hlo hn
  · obtain rfl : k = 0 := hk.resolve_right hlo
    rw [Nat.zero_mul, Nat.zero_add, fUnits_subnormal (by omega), Nat.pow_zero, Nat.mul_one]

/-- One step up from a scaled integer is at least one unit of its place. -/
theorem le_fUnits_succ {k n : Nat} (hn : n ≤ 2 ^ 53) (hk : k = 0 ∨ 2 ^ 52 ≤ n) :
    (n + 1) * 2 ^ k ≤ fUnits (k * 2 ^ 52 + n + 1) := by
  rcases Nat.lt_or_eq_of_le hn with hlt | rfl
  · rw [Nat.add_assoc, fUnits_scaled (by omega) (by omega)]
  · have hplace : k * 2 ^ 52 + 2 ^ 53 + 1 = (k + 1) * 2 ^ 52 + (2 ^ 52 + 1) := by omega
    rw [hplace, fUnits_scaled (by omega) (by omega), pow_succ 2 k]
    linarith [Nat.two_pow_pos k]

/-- Every integer below 2^53, at any place, is a magnitude's. -/
theorem exists_fUnits_eq {n : Nat} (k : Nat) (hn : n < 2 ^ 53) : ∃ m, fUnits m = n * 2 ^ k := by
  induction k generalizing n with
  | zero => exact ⟨0 * 2 ^ 52 + n, fUnits_scaled hn.le (.inl rfl)⟩
  | succ k ih =>
    by_cases hlo : 2 ^ 52 ≤ n
    · exact ⟨_, fUnits_scaled hn.le (.inr hlo)⟩
    · obtain ⟨m, hm⟩ := ih (n := 2 * n) (by omega)
      exact ⟨m, by rw [hm, Nat.pow_succ]; ring⟩

/-! ### Rounding to nearest, by the middles between magnitudes -/

/-- `g` is the magnitude nearest `num / den` units: the quotient is on `g`'s side of the middle between `g` and any
other magnitude, and in a middle only if `g` is even. -/
def RoundsTo (num den g : Nat) : Prop :=
  ∀ m, (m < g → (fUnits m + fUnits g) * den ≤ 2 * num) ∧ (g < m → 2 * num ≤ (fUnits m + fUnits g) * den)
    ∧ (m ≠ g → (fUnits m + fUnits g) * den = 2 * num → g % 2 = 0)

/-- The neighbours are enough. -/
theorem roundsTo_of_neighbours {num den g : Nat} (hden : 0 < den)
    (hup : 2 * num ≤ (fUnits (g + 1) + fUnits g) * den)
    (hupTie : (fUnits (g + 1) + fUnits g) * den = 2 * num → g % 2 = 0)
    (hdown : ∀ p, g = p + 1 → (fUnits p + fUnits g) * den ≤ 2 * num
      ∧ ((fUnits p + fUnits g) * den = 2 * num → g % 2 = 0)) : RoundsTo num den g := by
  have hmono {m n : Nat} (h : m < n) : (fUnits m + fUnits g) * den < (fUnits n + fUnits g) * den :=
    Nat.mul_lt_mul_of_pos_right (Nat.add_lt_add_right (fUnits_strictMono h) _) hden
  intro m
  rcases Nat.lt_trichotomy m g with hlt | rfl | hgt
  · obtain ⟨p, rfl⟩ : ∃ p, g = p + 1 := ⟨g - 1, by omega⟩
    obtain ⟨hle, htie⟩ := hdown p rfl
    rcases Nat.lt_or_eq_of_le (Nat.le_of_lt_succ hlt) with hmp | rfl
    · have := hmono hmp
      exact ⟨fun _ => by omega, by omega, fun _ h => by omega⟩
    · exact ⟨fun _ => hle, by omega, fun _ => htie⟩
  · exact ⟨by omega, by omega, by omega⟩
  · rcases Nat.lt_or_eq_of_le (Nat.succ_le_of_lt hgt) with hgm | rfl
    · have := hmono (m := g + 1) hgm
      exact ⟨by omega, fun _ => by omega, fun _ h => by omega⟩
    · exact ⟨by omega, fun _ => hup, fun _ => hupTie⟩

/-- `divRne` is nearest, and in the middle between two whole numbers the even one. -/
theorem divRne_spec (num : Nat) {den : Nat} (h : 0 < den) :
    2 * num ≤ (2 * divRne num den + 1) * den ∧ 2 * divRne num den * den ≤ 2 * num + den
      ∧ (2 * num = (2 * divRne num den + 1) * den → divRne num den % 2 = 0)
      ∧ (2 * divRne num den * den = 2 * num + den → divRne num den % 2 = 0) := by
  have hdiv : den * (num / den) + num % den = num := Nat.div_add_mod num den
  have hmod := Nat.mod_lt num h
  have hparity := Nat.mod_two_eq_zero_or_one (num / den)
  generalize hq : num / den = q at *
  generalize hr : num % den = r at *
  have hform (x : Nat) : 2 * x * den = 2 * (den * x) := by ring
  unfold divRne
  rw [hq, hr, Nat.add_mul]
  split
  · rw [hform, Nat.mul_add]
    refine ⟨by omega, by omega, fun h => by omega, fun h => by omega⟩
  · rw [hform]
    refine ⟨by omega, by omega, fun h => by omega, fun h => by omega⟩

/-- The rounding without the infinity. -/
def fRoundWide (num den : Nat) : Nat :=
  (fLog2 12 (num / den) - 52) * fHidden + divRne num (den <<< (fLog2 12 (num / den) - 52))

theorem fRound_eq_min (num den : Nat) : fRound num den = min (fRoundWide num den) fInfMag := rfl

/-- The highest place `fLog2` finds in a number too large for it. -/
theorem fLog2_of_large (f n : Nat) (h : 2 ^ 2 ^ f ≤ n) : fLog2 f n = 2 ^ f - 1 := by
  induction f generalizing n with
  | zero => rfl
  | succ f ih =>
    have hs : (1 : Nat) <<< f = 2 ^ f := by simp [Nat.shiftLeft_eq]
    have hp : 0 < 2 ^ 2 ^ f := Nat.two_pow_pos _
    have hhigh : 2 ^ 2 ^ f ≤ n / 2 ^ 2 ^ f := by
      rw [Nat.le_div_iff_mul_le hp, ← Nat.pow_add, ← Nat.two_mul, Nat.mul_comm, ← Nat.pow_succ]
      exact h
    rw [fLog2, hs, Nat.shiftRight_eq_div_pow, if_neg (by omega), ih _ hhigh, Nat.pow_succ]
    have := Nat.two_pow_pos f
    omega

/-- Where a quotient is cut: the place keeps at most 53 bits, and 53 unless it is the lowest. -/
theorem cut_spec {num den k : Nat} (hk : k = fLog2 12 (num / den) - 52) (hden : 0 < den)
    (hq : num / den < 2 ^ 2 ^ 12) :
    num < 2 ^ 53 * (den * 2 ^ k) ∧ (k = 0 ∨ 2 ^ 52 * (den * 2 ^ k) ≤ num) := by
  rcases Nat.eq_zero_or_pos (num / den) with h0 | h0
  · have hlt : num < den := (Nat.div_eq_zero_iff_lt hden).1 h0
    have hk0 : k = 0 := by rw [hk, h0]; decide
    rw [hk0, Nat.pow_zero, Nat.mul_one]
    exact ⟨by omega, .inl rfl⟩
  · obtain ⟨hlo, hhi⟩ := fLog2_spec 12 _ h0 hq
    generalize hL : fLog2 12 (num / den) = L at *
    constructor
    · have hle : 2 ^ (L + 1) ≤ 2 ^ (53 + k) := Nat.pow_le_pow_right (by decide) (by omega)
      have := (Nat.div_lt_iff_lt_mul hden).1 (hhi.trans_le hle)
      rw [Nat.pow_add] at this
      linarith [this]
    · by_cases hk0 : k = 0
      · exact .inl hk0
      · right
        have hL : 52 + k = L := by omega
        have := (Nat.le_div_iff_mul_le hden).1 hlo
        rw [← hL, Nat.pow_add] at this
        linarith [this]

/-- R17: rounding to nearest, ties to even. -/
theorem roundsTo_fRoundWide {num den : Nat} (hden : 0 < den) (hq : num / den < 2 ^ 2 ^ 12) :
    RoundsTo num den (fRoundWide num den) := by
  obtain ⟨k, hk⟩ : ∃ k, k = fLog2 12 (num / den) - 52 := ⟨_, rfl⟩
  obtain ⟨hhi, hlo⟩ := cut_spec hk hden hq
  have hD : 0 < den * 2 ^ k := Nat.mul_pos hden (Nat.two_pow_pos k)
  obtain ⟨hup, hdown, hupTie, hdownTie⟩ := divRne_spec num hD
  obtain ⟨r, hr⟩ : ∃ r, r = divRne num (den * 2 ^ k) := ⟨_, rfl⟩
  have hg : fRoundWide num den = k * 2 ^ 52 + r := by
    rw [fRoundWide, ← hk, Nat.shiftLeft_eq, ← hr]
    rfl
  rw [← hr] at hup hdown hupTie hdownTie
  rw [hg]
  have hr53 : r ≤ 2 ^ 53 := by
    by_contra hgt
    nlinarith [Nat.mul_le_mul_right (den * 2 ^ k) (show 2 ^ 53 + 1 ≤ r by omega)]
  have hr52 : k = 0 ∨ 2 ^ 52 ≤ r := hlo.imp_right fun h => by
    by_contra hlt
    nlinarith [Nat.mul_le_mul_right (den * 2 ^ k) (show r + 1 ≤ 2 ^ 52 by omega)]
  have hunits := fUnits_scaled hr53 hr52
  have heven : r % 2 = 0 → (k * 2 ^ 52 + r) % 2 = 0 := by omega
  have hmid (n : Nat) : (n * 2 ^ k + r * 2 ^ k) * den = (n + r) * (den * 2 ^ k) := by ring
  have habove : (2 * r + 1) * (den * 2 ^ k) ≤ (fUnits (k * 2 ^ 52 + r + 1) + fUnits (k * 2 ^ 52 + r)) * den :=
    calc (2 * r + 1) * (den * 2 ^ k) = ((r + 1) * 2 ^ k + r * 2 ^ k) * den := by ring
      _ ≤ _ := Nat.mul_le_mul_right _ (Nat.add_le_add (le_fUnits_succ hr53 hr52) hunits.ge)
  refine roundsTo_of_neighbours hden (hup.trans habove) (fun h => heven (hupTie (hup.antisymm (h ▸ habove)))) ?_
  intro p hp
  by_cases hinner : k = 0 ∨ 2 ^ 52 < r
  · obtain ⟨q, rfl⟩ : ∃ q, r = q + 1 := ⟨r - 1, by omega⟩
    obtain rfl : p = k * 2 ^ 52 + q := by omega
    have hsum : (q + (q + 1)) * (den * 2 ^ k) + den * 2 ^ k = 2 * (q + 1) * (den * 2 ^ k) := by ring
    rw [hunits, fUnits_scaled (by omega) (by omega), hmid]
    exact ⟨by omega, fun h => heven (hdownTie (by omega))⟩
  · have hbelow : (fUnits p + fUnits (k * 2 ^ 52 + r)) * den < 2 * num :=
      calc (fUnits p + fUnits (k * 2 ^ 52 + r)) * den
          < (r * 2 ^ k + r * 2 ^ k) * den := by
            rw [← hunits]
            exact Nat.mul_lt_mul_of_pos_right (Nat.add_lt_add_right (fUnits_strictMono (by omega)) _) hden
        _ = (r + r) * (den * 2 ^ k) := hmid r
        _ = 2 * (2 ^ 52 * (den * 2 ^ k)) := by rw [show r = 2 ^ 52 by omega]; ring
        _ ≤ 2 * num := Nat.mul_le_mul_left 2 (hlo.resolve_left (by omega))
    exact ⟨hbelow.le, by omega⟩

/-- Half an ulp above the largest finite magnitude, from which on the infinity is chosen. -/
def fInfFrom : Nat := (2 ^ 54 - 1) * 2 ^ 2044

theorem fUnits_fInfMag : fUnits fInfMag = 2 ^ 53 * 2 ^ 2045 := by
  rw [show fInfMag = 2045 * 2 ^ 52 + 2 ^ 53 by decide]
  exact fUnits_normal 2045 (by decide) le_rfl

theorem fUnits_largest : fUnits (fInfMag - 1) = (2 ^ 53 - 1) * 2 ^ 2045 := by
  rw [show fInfMag - 1 = 2045 * 2 ^ 52 + (2 ^ 53 - 1) by decide]
  exact fUnits_normal 2045 (by decide) (by decide)

theorem two_mul_half_ulp_above {j k : Nat} (h : j = k + 1) :
    (2 ^ 53 - 1) * 2 ^ j + 2 ^ 53 * 2 ^ j = 2 * ((2 ^ 54 - 1) * 2 ^ k) := by
  rw [h]
  ring

theorem fUnits_largest_add : fUnits (fInfMag - 1) + fUnits fInfMag = 2 * fInfFrom := by
  rw [fUnits_largest, fUnits_fInfMag, fInfFrom, two_mul_half_ulp_above (k := 2044) rfl]

theorem half_ulp_above_le {k n : Nat} (h : 54 + k ≤ n) : (2 ^ 54 - 1) * 2 ^ k ≤ 2 ^ n :=
  calc (2 ^ 54 - 1) * 2 ^ k ≤ 2 ^ 54 * 2 ^ k := Nat.mul_le_mul_right _ (by decide)
    _ = 2 ^ (54 + k) := (Nat.pow_add 2 54 k).symm
    _ ≤ 2 ^ n := Nat.pow_le_pow_right (by decide) h

/-- A quotient too large for `fLog2` is far in the infinity's range. -/
theorem fRound_of_large {num den : Nat} (hden : 0 < den) (hq : 2 ^ 2 ^ 12 ≤ num / den) :
    fRound num den = fInfMag ∧ fInfFrom * den ≤ num := by
  constructor
  · rw [fRound_eq_min, fRoundWide, fLog2_of_large 12 _ hq]
    exact Nat.min_eq_right (Nat.le_add_right_of_le (by decide))
  · refine (Nat.le_div_iff_mul_le hden).1 (le_trans ?_ hq)
    exact half_ulp_above_le (k := 2044) (by decide)

theorem fRound_eq_fInfMag_iff {num den : Nat} (hden : 0 < den) :
    fRound num den = fInfMag ↔ fInfFrom * den ≤ num := by
  rcases Nat.lt_or_ge (num / den) (2 ^ 2 ^ 12) with hq | hq
  · have hnear := roundsTo_fRoundWide hden hq
    have hsum := fUnits_largest_add
    rw [fRound_eq_min]
    generalize fRoundWide num den = g at *
    rw [min_eq_right_iff]
    constructor
    · intro hg
      have hle := (hnear (fInfMag - 1)).1 (by unfold fInfMag at *; omega)
      have := Nat.mul_le_mul_right den (Nat.add_le_add_left (fUnits_le_of_le hg) (fUnits (fInfMag - 1)))
      rw [hsum] at this
      linarith
    · intro hfrom
      by_contra hg
      obtain ⟨-, hle, htie⟩ := hnear fInfMag
      have hgM : fUnits g ≤ fUnits (fInfMag - 1) := fUnits_le_of_le (by omega)
      have hmul := Nat.mul_le_mul_right den (Nat.add_le_add_right hgM (fUnits fInfMag))
      have hge := hle (by omega)
      rw [hsum] at hmul
      rw [Nat.add_comm] at hge
      have hlargest : g = fInfMag - 1 := by
        apply fUnits_strictMono.injective
        refine Nat.add_right_cancel (m := fUnits fInfMag) (Nat.eq_of_mul_eq_mul_right hden ?_)
        rw [hsum]
        linarith
      have heven := htie (by omega) (by rw [Nat.add_comm]; linarith)
      rw [hlargest] at heven
      exact absurd heven (by decide)
  · exact iff_of_true (fRound_of_large hden hq).1 (fRound_of_large hden hq).2

/-- R17: a finite result is the nearest magnitude. -/
theorem roundsTo_fRound {num den : Nat} (hden : 0 < den) (hfin : fRound num den < fInfMag) :
    RoundsTo num den (fRound num den) := by
  have hq : num / den < 2 ^ 2 ^ 12 := by
    by_contra hq
    exact hfin.ne (fRound_of_large hden (Nat.le_of_not_lt hq)).1
  have hwide : fRound num den = fRoundWide num den := by
    rw [fRound_eq_min] at hfin ⊢
    omega
  rw [hwide]
  exact roundsTo_fRoundWide hden hq

theorem fRound_lt_fInfMag {num den : Nat} (hden : 0 < den) (h : num < fInfFrom * den) :
    fRound num den < fInfMag :=
  lt_of_le_of_ne (fRound_le num den) fun heq => Nat.not_le_of_lt h ((fRound_eq_fInfMag_iff hden).1 heq)

/-- The distances from the quotient, for a magnitude on the far side of a middle. -/
theorem RoundsTo.natAbs_le {num den g : Nat} (h : RoundsTo num den g) (hden : 0 < den) (m : Nat) :
    ((num : Int) - fUnits g * den).natAbs ≤ ((num : Int) - fUnits m * den).natAbs
      ∧ (((num : Int) - fUnits g * den).natAbs = ((num : Int) - fUnits m * den).natAbs → m = g ∨ g % 2 = 0) := by
  obtain ⟨hdown, hup, htie⟩ := h m
  rw [Nat.add_mul] at hdown hup htie
  rw [← Nat.cast_mul, ← Nat.cast_mul]
  rcases Nat.lt_trichotomy m g with hlt | rfl | hgt
  · have hle := Nat.mul_lt_mul_of_pos_right (fUnits_strictMono hlt) hden
    have hmid := hdown hlt
    exact ⟨by omega, fun heq => .inr (htie hlt.ne (by omega))⟩
  · exact ⟨le_rfl, fun _ => .inl rfl⟩
  · have hle := Nat.mul_lt_mul_of_pos_right (fUnits_strictMono hgt) hden
    have hmid := hup hgt
    exact ⟨by omega, fun heq => .inr (htie hgt.ne' (by omega))⟩

/-- A quotient that is a finite magnitude's rounds to it. -/
theorem fRound_fUnits {m : Nat} (hm : m < fInfMag) : fRound (fUnits m) 1 = m := by
  have hfin : fRound (fUnits m) 1 < fInfMag := by
    apply fRound_lt_fInfMag Nat.one_pos
    have hle : fUnits m ≤ fUnits (fInfMag - 1) := fUnits_le_of_le (by omega)
    have hlt : fUnits (fInfMag - 1) < fUnits fInfMag := fUnits_strictMono (by decide)
    have hsum := fUnits_largest_add
    omega
  obtain ⟨hdown, hup, -⟩ := roundsTo_fRound Nat.one_pos hfin m
  rcases Nat.lt_trichotomy m (fRound (fUnits m) 1) with hlt | heq | hgt
  · have := hdown hlt
    have := fUnits_strictMono hlt
    omega
  · exact heq.symm
  · have := hup hgt
    have := fUnits_strictMono hgt
    omega

/-! ### The remainder -/

/-- The remainder of two magnitudes is a magnitude: it is a multiple of the finer place of the two, below the integer
of one of them at that place. -/
theorem exists_fUnits_mod (a : Nat) {b : Nat} (hb : 0 < b) :
    ∃ m < b, fUnits m = fUnits a % fUnits b := by
  have hpos : 0 < fUnits b := (Nat.zero_le _).trans_lt (fUnits_strictMono hb)
  have hlt : fUnits a % fUnits b < fUnits b := Nat.mod_lt _ hpos
  suffices h : ∃ m, fUnits m = fUnits a % fUnits b by
    obtain ⟨m, hm⟩ := h
    exact ⟨m, fUnits_strictMono.lt_iff_lt.1 (hm ▸ hlt), hm⟩
  rcases Nat.lt_or_ge (fUnits a) (fUnits b) with hab | hab
  · exact ⟨a, (Nat.mod_eq_of_lt hab).symm⟩
  · obtain ⟨k, n, hn, hk, rfl, hb'⟩ := exists_scaled b
    obtain ⟨j, p, hp, hj, rfl, ha'⟩ := exists_scaled a
    have hkj : k ≤ j := by
      have := fUnits_strictMono.le_iff_le.1 hab
      omega
    rw [ha', hb', show j = j - k + k by omega, pow_add, ← mul_assoc, Nat.mul_mod_mul_right]
    have hn0 : 0 < n := by
      by_contra h0
      rw [hb', show n = 0 by omega, Nat.zero_mul] at hpos
      exact hpos.false
    exact exists_fUnits_eq k ((Nat.mod_lt _ hn0).trans hn)

theorem fNeg_fMk (neg : Bool) {m : Nat} (h : m < fInfMag) : fNeg (fMk neg m) = neg := by
  cases neg with
  | false => exact fNeg_fMk_false h
  | true =>
    have hbound : m < 2 ^ 63 := by unfold fInfMag at h; omega
    rw [fNeg, fMk, if_pos rfl, BitVec.getLsbD_ofNat, show 0x8000000000000000 + m = 2 ^ 63 + m from rfl,
      Nat.testBit_two_pow_add_eq, Nat.testBit_lt_two_pow hbound]
    rfl

/-- What `fMod` is of a finite value by a finite nonzero one. -/
theorem fMod_finite {a b : F64} (ha : fMag a < fInfMag) (hb0 : 0 < fMag b) (hb : fMag b < fInfMag) :
    fNeg (fMod a b) = fNeg a ∧ fMag (fMod a b) < fInfMag
      ∧ fUnits (fMag (fMod a b)) = fUnits (fMag a) % fUnits (fMag b) := by
  obtain ⟨m, hmb, hm⟩ := exists_fUnits_mod (fMag a) hb0
  have hfin := hmb.trans hb
  have hmod : fMod a b = fMk (fNeg a) m := by
    simp [fMod, fIsNaN, fIsInf, ha.le, hb.le, ha.ne, hb.ne, hb0.ne', ← hm, fRound_fUnits hfin]
  rw [hmod, fNeg_fMk _ hfin, fMag_fMk _ _ (by unfold fInfMag at hfin; omega)]
  exact ⟨rfl, hfin, hm⟩

end Sys2Proof.Machine
end

section
/-! PROOFS. The root of binary64 (00_scope.md R17): the integer root has 66 bits or more, so the rounding of the point
it is exchanged for falls as that of the exact root does. -/

namespace Sys2Proof.Machine

/-! ### The integer root -/

/-- The root cut to whole steps of `2^t`, with at least 66 bits left. -/
theorem cutRoot_spec {n t r : Nat} (hlo : 2 ^ 130 ≤ n) (hhi : n < 2 ^ 2 ^ 12) (ht : t = fLog2 12 n / 2 - 65)
    (hr : r = isqrt 67 (n >>> (2 * t)) 0) :
    2 ^ 65 ≤ r ∧ r * 2 ^ t * (r * 2 ^ t) ≤ n ∧ n < (r + 1) * 2 ^ t * ((r + 1) * 2 ^ t) := by
  obtain ⟨hlogLo, hlogHi⟩ := fLog2_spec 12 n ((Nat.two_pow_pos 130).trans_le hlo) hhi
  have hlog : 130 ≤ fLog2 12 n := by
    have := (Nat.pow_lt_pow_iff_right (by decide : 1 < 2)).1 (hlo.trans_lt hlogHi)
    omega
  have hstep : 0 < 2 ^ (2 * t) := Nat.two_pow_pos _
  have hcutHi : n / 2 ^ (2 * t) < 2 ^ 67 * 2 ^ 67 := by
    rw [Nat.div_lt_iff_lt_mul hstep, ← Nat.pow_add, ← Nat.pow_add]
    exact hlogHi.trans_le (Nat.pow_le_pow_right (by decide) (by omega))
  have hcutLo : 2 ^ 65 * 2 ^ 65 ≤ n / 2 ^ (2 * t) := by
    rw [Nat.le_div_iff_mul_le hstep, ← Nat.pow_add, ← Nat.pow_add]
    exact (Nat.pow_le_pow_right (by decide) (by omega)).trans hlogLo
  rw [Nat.shiftRight_eq_div_pow] at hr
  obtain ⟨hsq, hsqSucc⟩ := isqrt_spec 67 (n / 2 ^ (2 * t)) 0 (Nat.zero_le _) (by rwa [Nat.zero_add])
  rw [← hr] at hsq hsqSucc
  have hpow : 2 ^ (2 * t) = 2 ^ t * 2 ^ t := by rw [Nat.two_mul, Nat.pow_add]
  refine ⟨?_, ?_, ?_⟩
  · by_contra hlt
    have := Nat.mul_le_mul (show r + 1 ≤ 2 ^ 65 by omega) (show r + 1 ≤ 2 ^ 65 by omega)
    omega
  · have := (Nat.le_div_iff_mul_le hstep).1 hsq
    rw [hpow] at this
    linarith
  · have := (Nat.div_lt_iff_lt_mul hstep).1 hsqSucc
    rw [hpow] at this
    linarith

/-! ### The rounding of the root -/

/-- `g` is the magnitude nearest the root of `n` (in squares, so that no root is taken). -/
def RootRoundsTo (n g : Nat) : Prop :=
  ∀ m, (m < g → (fUnits m + fUnits g) * (fUnits m + fUnits g) ≤ 4 * n)
    ∧ (g < m → 4 * n ≤ (fUnits m + fUnits g) * (fUnits m + fUnits g))
    ∧ (m ≠ g → (fUnits m + fUnits g) * (fUnits m + fUnits g) = 4 * n → g % 2 = 0)

theorem two_mul_mul_self (x : Nat) : 2 * x * (2 * x) = 4 * (x * x) := by
  ring

/-- A root that is a whole number of units. -/
theorem rootRoundsTo_of_exact {n x g : Nat} (hx : x * x = n) (hg : RoundsTo x 1 g) : RootRoundsTo n g := by
  intro m
  obtain ⟨hdown, hup, htie⟩ := hg m
  rw [Nat.mul_one] at hdown hup htie
  rw [← hx, ← two_mul_mul_self]
  exact ⟨fun h => Nat.mul_self_le_mul_self (hdown h), fun h => Nat.mul_self_le_mul_self (hup h),
    fun h heq => htie h (Nat.mul_self_inj.1 heq)⟩

/-- A magnitude of more than 53 bits above `2^j` is a multiple of `2^j`. -/
theorem two_pow_dvd_fUnits {j m : Nat} (h : 2 ^ (j + 53) ≤ fUnits m) : 2 ^ j ∣ fUnits m := by
  obtain ⟨k, n, hn, -, -, hm⟩ := exists_scaled m
  have hlt : 2 ^ (j + 53) < 2 ^ (53 + k) := by
    rw [Nat.pow_add 2 53 k]
    exact h.trans_lt (hm ▸ Nat.mul_lt_mul_of_pos_right hn (Nat.two_pow_pos k))
  have hjk := (Nat.pow_lt_pow_iff_right (by decide : 1 < 2)).1 hlt
  rw [hm]
  exact Dvd.dvd.mul_left (pow_dvd_pow 2 (by omega)) n

/-- The magnitude of a power of two. -/
theorem fUnits_two_pow (k : Nat) : fUnits ((k + 1) * 2 ^ 52) = 2 ^ (52 + k) := by
  rw [Nat.succ_mul, fUnits_normal k le_rfl (by decide), ← Nat.pow_add]

/-- The sum of two neighbouring magnitudes in the root's range is a multiple of `2^(t+1)`. -/
theorem two_pow_dvd_neighbours {t m p : Nat} (hm : 2 ^ (t + 63) ≤ fUnits m) (hp : 2 ^ (t + 63) ≤ fUnits p) :
    2 ^ (t + 1) ∣ fUnits m + fUnits p := by
  have hpow : 2 ^ (t + 1 + 53) ≤ 2 ^ (t + 63) := Nat.pow_le_pow_right (by decide) (by omega)
  exact dvd_add (two_pow_dvd_fUnits (hpow.trans hm)) (two_pow_dvd_fUnits (hpow.trans hp))

/-- The point half way between two steps of the root rounds to a magnitude well above `2^(t+63)`. -/
theorem power_lt_of_roundsTo {t r g : Nat} (hr : 2 ^ 65 ≤ r) (hg : RoundsTo ((2 * r + 1) * 2 ^ t) 2 g) :
    (t + 12) * 2 ^ 52 < g := by
  by_contra hle
  have hlt : g < (t + 13) * 2 ^ 52 := by omega
  have hup := (hg ((t + 12 + 1) * 2 ^ 52)).2.1 hlt
  have hmono := fUnits_strictMono hlt
  rw [fUnits_two_pow, show 52 + (t + 12) = 64 + t by omega, Nat.pow_add] at *
  have := Nat.mul_le_mul_right (2 ^ t) hr
  have := Nat.two_pow_pos t
  nlinarith

/-- Between two neighbours the point half way between two steps stands for every point strictly between them. -/
theorem roundsTo_half_step {t r g : Nat} (hr : 2 ^ 65 ≤ r) (hg : RoundsTo ((2 * r + 1) * 2 ^ t) 2 g) (m : Nat) :
    (m < g → fUnits m + fUnits g ≤ 2 * (r * 2 ^ t)) ∧ (g < m → 2 * ((r + 1) * 2 ^ t) ≤ fUnits m + fUnits g) := by
  have hpower := power_lt_of_roundsTo hr hg
  have hlow {p : Nat} (hp : (t + 12) * 2 ^ 52 ≤ p) : 2 ^ (t + 63) ≤ fUnits p :=
    calc 2 ^ (t + 63) = fUnits ((t + 11 + 1) * 2 ^ 52) := by rw [fUnits_two_pow]; congr 1; omega
      _ ≤ fUnits p := fUnits_le_of_le hp
  have hstep : 0 < 2 ^ t := Nat.two_pow_pos t
  constructor
  · intro hm
    obtain ⟨p, rfl⟩ : ∃ p, g = p + 1 := ⟨g - 1, by omega⟩
    refine (Nat.add_le_add_right (fUnits_le_of_le (Nat.le_of_lt_succ hm)) _).trans ?_
    obtain ⟨c, hc⟩ := two_pow_dvd_neighbours (hlow (Nat.le_of_lt_succ hpower)) (hlow hpower.le)
    have hmid := (hg p).1 (Nat.lt_succ_self p)
    rw [hc, Nat.pow_succ] at *
    have hcr : c ≤ r := by
      by_contra hlt
      nlinarith [Nat.mul_le_mul_right (2 ^ t) (show r + 1 ≤ c by omega)]
    nlinarith [Nat.mul_le_mul_right (2 ^ t) hcr]
  · intro hm
    refine le_trans ?_ (Nat.add_le_add_right (fUnits_le_of_le hm) _)
    obtain ⟨c, hc⟩ := two_pow_dvd_neighbours (hlow (hpower.le.trans (Nat.le_succ g))) (hlow hpower.le)
    have hmid := (hg (g + 1)).2.1 (Nat.lt_succ_self g)
    rw [hc, Nat.pow_succ] at *
    have hcr : r + 1 ≤ c := by
      by_contra hlt
      nlinarith [Nat.mul_le_mul_right (2 ^ t) (show c ≤ r by omega)]
    nlinarith [Nat.mul_le_mul_right (2 ^ t) hcr]

/-- A root that lies strictly between two steps. -/
theorem rootRoundsTo_of_inexact {n t r g : Nat} (hr : 2 ^ 65 ≤ r) (hlo : r * 2 ^ t * (r * 2 ^ t) < n)
    (hhi : n < (r + 1) * 2 ^ t * ((r + 1) * 2 ^ t)) (hg : RoundsTo ((2 * r + 1) * 2 ^ t) 2 g) : RootRoundsTo n g := by
  intro m
  obtain ⟨hdown, hup⟩ := roundsTo_half_step hr hg m
  have hbelow (h : m < g) : (fUnits m + fUnits g) * (fUnits m + fUnits g) < 4 * n := by
    have := Nat.mul_self_le_mul_self (hdown h)
    rw [two_mul_mul_self] at this
    omega
  have habove (h : g < m) : 4 * n < (fUnits m + fUnits g) * (fUnits m + fUnits g) := by
    have := Nat.mul_self_le_mul_self (hup h)
    rw [two_mul_mul_self] at this
    omega
  refine ⟨fun h => (hbelow h).le, fun h => (habove h).le, fun h heq => ?_⟩
  rcases Nat.lt_or_gt_of_ne h with hlt | hgt
  · exact absurd heq (hbelow hlt).ne
  · exact absurd heq (habove hgt).ne'

/-! ### `fSqrt` -/

theorem two_pow_mul_mem {j k a b : Nat} (ha : a ≤ j + k) (hb : j + k ≤ b) :
    2 ^ a ≤ 2 ^ j * 2 ^ k ∧ 2 ^ j * 2 ^ k ≤ 2 ^ b := by
  rw [← Nat.pow_add]
  exact ⟨Nat.pow_le_pow_right (by decide) ha, Nat.pow_le_pow_right (by decide) hb⟩

theorem two_pow_mul_eq {i j k l : Nat} (h : i + j = k + l) : 2 ^ i * 2 ^ j = 2 ^ k * 2 ^ l := by
  rw [← Nat.pow_add, h, Nat.pow_add]

/-- The square a finite root is taken of, in squares of units. -/
theorem sqrtArg_bounds {m : Nat} (h0 : 0 < m) (hm : m < fInfMag) :
    2 ^ 130 ≤ fUnits m * fOne ∧ fUnits m * fOne < 2 ^ 1600 * 2 ^ 1600 := by
  have hone : 2 ^ 130 ≤ fOne ∧ fOne ≤ 2 ^ 1100 := by
    rw [fOne_eq]
    exact two_pow_mul_mem (by decide) (by decide)
  have hpos : 0 < fUnits m := (Nat.zero_le _).trans_lt (fUnits_strictMono h0)
  have hlt : fUnits m < 2 ^ 2100 := by
    refine (fUnits_strictMono hm).trans_le ?_
    rw [fUnits_fInfMag]
    exact (two_pow_mul_mem (a := 0) (Nat.zero_le _) (by decide)).2
  constructor
  · exact hone.1.trans (Nat.le_mul_of_pos_left fOne hpos)
  · calc fUnits m * fOne < 2 ^ 2100 * 2 ^ 1100 := Nat.mul_lt_mul_of_lt_of_le hlt hone.2 (by positivity)
      _ = 2 ^ 1600 * 2 ^ 1600 := two_pow_mul_eq (by decide)

theorem three_mul_two_pow_lt {k n : Nat} (hk : k ≤ n) : 3 * 2 ^ k < (2 ^ 54 - 1) * 2 ^ n :=
  Nat.mul_lt_mul_of_lt_of_le (by decide) (Nat.pow_le_pow_right (by decide) hk) (Nat.two_pow_pos _)

/-- What `fSqrt` is of a positive finite value: the finite magnitude nearest the root. -/
theorem fSqrt_finite {a : F64} (hneg : fNeg a = false) (h0 : 0 < fMag a) (hfin : fMag a < fInfMag) :
    ∃ g < fInfMag, fSqrt a = fMk false g ∧ RootRoundsTo (fUnits (fMag a) * fOne) g := by
  obtain ⟨hlo, hhi⟩ := sqrtArg_bounds h0 hfin
  have hhuge : fUnits (fMag a) * fOne < 2 ^ 2 ^ 12 :=
    hhi.trans_le (two_pow_mul_mem (a := 0) (Nat.zero_le _) (by decide)).2
  have hsqrt : fSqrt a =
      let n := fUnits (fMag a) * fOne
      let t := fLog2 12 n / 2 - 65
      let r := isqrt 67 (n >>> (2 * t)) 0
      if (r <<< t) * (r <<< t) = n then fMk false (fRound (r <<< t) 1)
      else fMk false (fRound ((2 * r + 1) <<< t) 2) := by
    simp [fSqrt, fIsNaN, fIsInf, hneg, h0.ne', hfin.ne, hfin.le]
  have hinf : 3 * 2 ^ 1600 < fInfFrom := three_mul_two_pow_lt (n := 2044) (by decide)
  rw [hsqrt]
  generalize 2 ^ 1600 = bound at hhi hinf
  generalize fUnits (fMag a) * fOne = n at *
  obtain ⟨t, ht⟩ : ∃ t, t = fLog2 12 n / 2 - 65 := ⟨_, rfl⟩
  obtain ⟨r, hr⟩ : ∃ r, r = isqrt 67 (n >>> (2 * t)) 0 := ⟨_, rfl⟩
  obtain ⟨hr65, hsq, hsqSucc⟩ := cutRoot_spec hlo hhuge ht hr
  simp only [← ht, ← hr, Nat.shiftLeft_eq]
  have hroot : r * 2 ^ t < bound := Nat.mul_self_lt_mul_self_iff.1 (hsq.trans_lt hhi)
  split
  case isTrue hexact =>
    have hg := fRound_lt_fInfMag Nat.one_pos (num := r * 2 ^ t) (by omega)
    exact ⟨_, hg, rfl, rootRoundsTo_of_exact hexact (roundsTo_fRound Nat.one_pos hg)⟩
  case isFalse hinexact =>
    have hstep : 2 ^ t ≤ r * 2 ^ t := Nat.le_mul_of_pos_left _ (by omega)
    have hnum : (2 * r + 1) * 2 ^ t = 2 * (r * 2 ^ t) + 2 ^ t := by ring
    have hg := fRound_lt_fInfMag Nat.two_pos (num := (2 * r + 1) * 2 ^ t) (by omega)
    have hbelow := lt_of_le_of_ne hsq hinexact
    exact ⟨_, hg, rfl, rootRoundsTo_of_inexact hr65 hbelow hsqSucc (roundsTo_fRound Nat.two_pos hg)⟩

theorem fSqrt_nan {a : F64} (h : fIsNaN a = true ∨ fNeg a = true ∧ fMag a ≠ 0) : fIsNaN (fSqrt a) = true := by
  rcases h with h | ⟨hneg, h0⟩
  · rw [fSqrt, if_pos h]
    decide
  · rw [fSqrt, if_neg h0, if_pos hneg, ite_self]
    decide

theorem fSqrt_fixed {a : F64} (h : fMag a = 0 ∨ fNeg a = false ∧ fMag a = fInfMag) : fSqrt a = a := by
  rcases h with h | ⟨hneg, h⟩
  · simp [fSqrt, fIsNaN, h]
  · simp [fSqrt, fIsNaN, fIsInf, h, hneg]

theorem fMod_nan {a b : F64} (h : fIsNaN a = true ∨ fIsNaN b = true ∨ fMag a = fInfMag ∨ fMag b = 0) :
    fIsNaN (fMod a b) = true := by
  have hnan : fIsNaN fNaN = true := by decide
  rcases h with h | h | h | h
  · simp [fMod, h, hnan]
  · simp [fMod, h, hnan]
  · simp [fMod, fIsInf, h, hnan]
  · rw [fMod, if_pos h, ite_self, hnan]

theorem fMod_by_infinity {a b : F64} (ha : fMag a < fInfMag) (hb : fMag b = fInfMag) : fMod a b = a := by
  have h0 : fInfMag ≠ 0 := by decide
  simp [fMod, fIsNaN, fIsInf, hb, ha.le, ha.ne, h0]

/-- Settles O57: `fRound` through the middles between neighbours, the root through the integer root, and the remainder
because it is itself a magnitude. -/
theorem roundNearest : Obligations.RoundNearest := by
  refine ⟨fun num den hden => ⟨fRound_eq_fInfMag_iff hden, fun hfin m _ =>
      (roundsTo_fRound hden hfin).natAbs_le hden m⟩,
    fun a => ⟨fSqrt_nan, fSqrt_fixed, fun hneg h0 hfin => ?_⟩,
    fun a b => ⟨fMod_nan, fMod_by_infinity, fMod_finite⟩⟩
  obtain ⟨g, hg, hsqrt, hnear⟩ := fSqrt_finite hneg h0 hfin
  rw [hsqrt, fMag_fMk _ _ (by unfold fInfMag at hg; omega)]
  exact ⟨fNeg_fMk false hg, hg, fun m _ => hnear m⟩

end Sys2Proof.Machine
end

section
/-! PROOFS. Exact binary64 operations (00_scope.md R16, R17): whole numbers, and what a zero does in a sum, a product
and a quotient. The ends of a palette (47_palette_interp.md) are sums with a zero. -/

namespace Sys2Proof.Machine

/-! ### Whole numbers -/

theorem scaled_lt {n i j k : Nat} (hn : n ≤ 2 ^ 53) (h : i + j < k) : n * (2 ^ i * 2 ^ j) < 2 ^ 53 * 2 ^ k := by
  rw [← Nat.pow_add]
  have hpow : 2 ^ (i + j) < 2 ^ k := Nat.pow_lt_pow_right (by decide) h
  exact (Nat.mul_le_mul_right _ hn).trans_lt (Nat.mul_lt_mul_of_pos_left hpow (by decide))

/-- R16: a whole number up to 2^53 is exact. -/
theorem fRound_natCast {n : Nat} (hn : n ≤ 2 ^ 53) :
    fRound (n * fOne) 1 < fInfMag ∧ fUnits (fRound (n * fOne) 1) = n * fOne := by
  obtain ⟨m, hm⟩ : ∃ m, fUnits m = n * fOne := by
    rcases Nat.lt_or_eq_of_le hn with hlt | rfl
    · rw [fOne_eq, ← pow_add]
      exact exists_fUnits_eq _ hlt
    · rw [fOne_eq, ← pow_add, pow_succ 2 52, mul_assoc, ← pow_succ']
      exact exists_fUnits_eq _ (by decide)
  have hfin : m < fInfMag := by
    refine fUnits_strictMono.lt_iff_lt.1 ?_
    rw [hm, fUnits_fInfMag, fOne_eq]
    exact scaled_lt hn (by decide)
  rw [← hm, fRound_fUnits hfin]
  exact ⟨hfin, rfl⟩

theorem lt_signBit {m : Nat} (h : m < fInfMag) : m < 0x8000000000000000 := by
  unfold fInfMag at h
  omega

theorem fOfNat_exact {n : Nat} (hn : n ≤ 2 ^ 53) :
    fNeg (fOfNat n) = false ∧ fMag (fOfNat n) < fInfMag ∧ fUnits (fMag (fOfNat n)) = n * fOne := by
  obtain ⟨hfin, hunits⟩ := fRound_natCast hn
  have hmag : fMag (fOfNat n) = fRound (n * fOne) 1 := fMag_fMk _ _ (lt_signBit hfin)
  rw [hmag]
  exact ⟨fNeg_fMk_false hfin, hfin, hunits⟩

theorem fMag_fOfInt_lt {z : Int} (hz : z.natAbs ≤ 2 ^ 53) : fMag (fOfInt z) < fInfMag := by
  obtain ⟨hfin, -⟩ := fRound_natCast hz
  rw [fOfInt, fMag_fMk _ _ (lt_signBit hfin)]
  exact hfin

/-! ### Zeros -/

theorem fRound_zero {den : Nat} (hden : 0 < den) : fRound 0 den = 0 := by
  have hlog : fLog2 12 0 = 0 := by decide
  simp [fRound, divRne, hlog, hden.ne']

theorem fUnits_eq_zero_iff {m : Nat} : fUnits m = 0 ↔ m = 0 :=
  fUnits_strictMono.injective.eq_iff' rfl

/-- A zero times a finite value is a zero. -/
theorem fMag_fMul_zero {a b : F64} (ha : fMag a = 0) (hb : fMag b < fInfMag) : fMag (fMul a b) = 0 := by
  have hinf : 0 ≠ fInfMag := by decide
  have hzero : fUnits 0 = 0 := rfl
  simp only [fMul, fIsNaN, fIsInf, ha, hb.ne, hb.le.not_gt, hinf, hzero, Nat.zero_mul, fRound_zero fOne_pos,
    Nat.not_lt_zero, decide_false, Bool.or_self, Bool.false_eq_true, if_false]
  exact fMag_fMk _ 0 (by decide)

theorem fMag_fMul_zero_right {a b : F64} (ha : fMag a < fInfMag) (hb : fMag b = 0) : fMag (fMul a b) = 0 := by
  have hinf : 0 ≠ fInfMag := by decide
  have hzero : fUnits 0 = 0 := rfl
  simp only [fMul, fIsNaN, fIsInf, hb, ha.ne, ha.le.not_gt, hinf, hzero, Nat.mul_zero, fRound_zero fOne_pos,
    Nat.not_lt_zero, decide_false, Bool.or_self, Bool.false_eq_true, if_false]
  exact fMag_fMk _ 0 (by decide)

/-- A zero divided by a finite value that is none is a zero. -/
theorem fMag_fDiv_zero {a b : F64} (ha : fMag a = 0) (hb : fMag b < fInfMag) (hb0 : fMag b ≠ 0) :
    fMag (fDiv a b) = 0 := by
  have hpos : 0 < fUnits (fMag b) := Nat.pos_of_ne_zero fun h => hb0 (fUnits_eq_zero_iff.1 h)
  have hzero : fUnits 0 = 0 := rfl
  rw [fDiv_finite (by rw [ha]; decide) hb hb0, ha, hzero, Nat.zero_mul, fRound_zero hpos]
  exact fMag_fMk _ 0 (by decide)

/-- A value is its sign and its magnitude. -/
theorem fMk_fMag {a : F64} (h : fNeg a = false) : fMk false (fMag a) = a := by
  have hmsb : a.toNat < 2 ^ 63 := by
    by_contra hge
    have : a.toNat.testBit 63 = true := Nat.testBit_of_two_pow_le_and_two_pow_add_one_gt (Nat.le_of_not_lt hge) a.isLt
    rw [fNeg, BitVec.getLsbD, this] at h
    exact Bool.noConfusion h
  apply BitVec.eq_of_toNat_eq
  rw [fMk, if_neg Bool.false_ne_true, fMag, BitVec.toNat_ofNat]
  omega

/-- A finite value of a plus sign and a zero of either sign sum to the value. -/
theorem fAdd_zero_right {a b : F64} (hneg : fNeg a = false) (ha : fMag a < fInfMag) (hb : fMag b = 0) :
    fAdd a b = a := by
  have hinf : 0 ≠ fInfMag := by decide
  have hzero : fUnits 0 = 0 := rfl
  simp only [fAdd, fIsNaN, fIsInf, hb, ha.ne, ha.le.not_gt, hinf, hzero, hneg, Nat.add_zero, Nat.sub_zero,
    fRound_fUnits ha, Nat.not_lt_zero, decide_false, Bool.or_self, Bool.false_eq_true, if_false, fMk_fMag hneg]
  split
  · rfl
  · split
    · rfl
    · have : fMag a = 0 := fUnits_eq_zero_iff.1 (by omega)
      rw [← this, fMk_fMag hneg]

/-! ### Interpolation at a fraction of zero -/

theorem fMag_fFlip (a : F64) : fMag (fFlip a) = fMag a := by
  have hmag (x : F64) : fMag x = x.toNat % 2 ^ 63 := rfl
  rw [hmag, hmag, fFlip, BitVec.toNat_xor]
  apply Nat.eq_of_testBit_eq
  intro i
  rw [Nat.testBit_mod_two_pow, Nat.testBit_mod_two_pow, Nat.testBit_xor]
  by_cases hi : i < 63
  · have : (0x8000000000000000#64).toNat.testBit i = false := Nat.testBit_two_pow_of_ne (n := 63) (by omega)
    rw [this, Bool.xor_false]
  · simp [hi]

/-- A sum of finite values far below the infinity is finite. -/
theorem fMag_fAdd_lt {a b : F64} (ha : fMag a < fInfMag) (hb : fMag b < fInfMag)
    (hab : fUnits (fMag a) + fUnits (fMag b) < fInfFrom) : fMag (fAdd a b) < fInfMag := by
  have hround (neg : Bool) {x : Nat} (hx : x < fInfFrom) : fMag (fMk neg (fRound x 1)) < fInfMag := by
    have hfin := fRound_lt_fInfMag Nat.one_pos (by rwa [Nat.mul_one])
    rwa [fMag_fMk _ _ (lt_signBit hfin)]
  simp only [fAdd, fIsNaN, fIsInf, ha.ne, hb.ne, ha.le.not_gt, hb.le.not_gt, decide_false, Bool.or_self,
    Bool.false_eq_true, if_false]
  split_ifs
  · exact hround _ hab
  · exact hround _ (by omega)
  · exact hround _ (by omega)
  · decide

theorem scaled_level_lt {n i j k : Nat} (hn : n < 512) (h : i + j ≤ k) : n * (2 ^ i * 2 ^ j) < (2 ^ 54 - 1) * 2 ^ k :=
  Nat.mul_lt_mul_of_lt_of_le (by omega) (two_pow_mul_mem (a := 0) (Nat.zero_le _) h).2 (Nat.two_pow_pos k)

theorem level_units_lt {n : Nat} (hn : n < 512) : n * fOne < fInfFrom := by
  rw [fOne_eq, fInfFrom]
  exact scaled_level_lt hn (by decide)

/-- The difference of two levels is finite. -/
theorem fMag_fSub_lt {a b : Nat} (ha : a < 256) (hb : b < 256) : fMag (fSub (fOfNat a) (fOfNat b)) < fInfMag := by
  obtain ⟨-, hafin, haunits⟩ := fOfNat_exact (n := a) (by omega)
  obtain ⟨-, hbfin, hbunits⟩ := fOfNat_exact (n := b) (by omega)
  rw [fSub]
  refine fMag_fAdd_lt hafin (by rwa [fMag_fFlip]) ?_
  rw [fMag_fFlip, haunits, hbunits, ← Nat.add_mul]
  exact level_units_lt (by omega)

theorem rneU8_fOfNat : ∀ n : Fin 256, rneU8 (fOfNat n) = BitVec.ofNat 8 n := by decide +kernel

/-- R352: at a fraction of zero a channel is the lower stop's. -/
theorem lerp_zero (a b : Byte) {frac : F64} (h : fMag frac = 0) : lerp a b frac = a := by
  obtain ⟨hneg, hfin, -⟩ := fOfNat_exact (n := a.toNat) (by have := a.isLt; omega)
  rw [lerp, fAdd_zero_right hneg hfin (fMag_fMul_zero_right (fMag_fSub_lt b.isLt a.isLt) h)]
  have := rneU8_fOfNat ⟨a.toNat, a.isLt⟩
  simpa using this

/-- Where a level stands among the stops (R352): at a stop, if the fraction past it is zero. -/
def PalAt (n g k : Nat) : Prop :=
  let pos := fMul (fDiv (fOfNat g) f255) (fOfNat (n - 1))
  (fFloor pos).toNat = k ∧ fMag (fSub pos (fOfNat k)) = 0

theorem palMap_of_palAt {n j k : Nat} {g : Byte} (h : PalAt n j k) (hg : g.toNat = j) (stops : Vector (BitVec 24) 16) :
    palMap stops n g = stopOf stops k := by
  obtain ⟨hidx, hfrac⟩ := h
  subst hg
  unfold palMap
  simp only [hidx, lerp_zero _ _ hfrac]

theorem palAt_first : ∀ n : Fin 17, PalAt n 0 0 := by
  unfold PalAt
  decide +kernel

theorem palAt_last : ∀ n : Fin 17, PalAt n 255 (n - 1) := by
  unfold PalAt
  decide +kernel

theorem palAt_single : ∀ g : Fin 256, PalAt 1 g 0 := by
  unfold PalAt
  decide +kernel

/-- Between a stop of 0 and a stop of 255 every level below 255 is its own. -/
theorem lerp_gray : ∀ g : Fin 255,
    let pos := fMul (fDiv (fOfNat g) f255) (fOfNat 1)
    (fFloor pos).toNat = 0 ∧ lerp 0 255 (fSub pos (fOfNat 0)) = BitVec.ofNat 8 g := by
  decide +kernel

theorem stopOf_reset : stopOf Cfg.reset.pal 0 = ⟨0, 0, 0⟩ ∧ stopOf Cfg.reset.pal 1 = ⟨255, 255, 255⟩ := by decide

theorem palMap_reset (g : Byte) : palMap Cfg.reset.pal 2 g = ⟨g, g, g⟩ := by
  obtain ⟨hfirst, hlast⟩ := stopOf_reset
  rcases Nat.lt_or_eq_of_le (Nat.le_of_lt_succ g.isLt) with hlt | heq
  · obtain ⟨hidx, hlerp⟩ := lerp_gray ⟨g.toNat, hlt⟩
    rw [BitVec.ofNat_toNat, BitVec.setWidth_eq] at hlerp
    simp only [palMap, Nat.reduceSub, hidx, Nat.zero_add, min_self, hfirst, hlast, hlerp]
  · have hwhite : g = 255 := BitVec.eq_of_toNat_eq heq
    rw [palMap_of_palAt (n := 2) (palAt_last 2) heq, hwhite]
    exact hlast

/-- R72: the channels of a stop. -/
theorem stopOf_eq (stops : Vector (BitVec 24) 16) (k : Fin 16) : stopOf stops k.val
    = ⟨(stops.get k).extractLsb' 0 8, (stops.get k).extractLsb' 8 8, (stops.get k).extractLsb' 16 8⟩ := by
  have hget : stops.toList.getD k.val 0 = stops.get k := by
    rw [List.getD_eq_getElem _ _ (by simp), Vector.getElem_toList, Vector.get_eq_getElem]
  rw [stopOf, hget]

/-- Settles O55: at the ends, and everywhere on a palette of one stop, the fraction is zero; the grays of the reset
palette are evaluated level by level. -/
theorem paletteEnds : Obligations.PaletteEnds :=
  ⟨stopOf_eq,
    fun stops n _ hn => ⟨palMap_of_palAt (palAt_first ⟨n, by omega⟩) rfl stops,
      palMap_of_palAt (palAt_last ⟨n, by omega⟩) rfl stops⟩,
    fun stops g => palMap_of_palAt (palAt_single ⟨g.toNat, g.isLt⟩) rfl stops,
    palMap_reset⟩

end Sys2Proof.Machine
end

section
/-! PROOFS. An all-white TBUF (44_error_diffusion.md section 4): the error of a white element is a zero, whatever the
bleed factor and the weights, and a zero added to white is white. -/

namespace Sys2Proof.Machine

/-! ### The error of a white element -/

theorem fMag_white_error : fMag (fSub f255 (fOfNat (255 : Byte).toNat)) = 0 := by decide +kernel

theorem onOff_f255 : onOff f255 = 255 := by decide

theorem fUnits_fMag_f256 : fUnits (fMag f256) = 256 * fOne := by decide +kernel

theorem bleed_scaled_lt {n i j k : Nat} (hn : n < 65536) (h : i + j ≤ k) :
    n * (2 ^ i * 2 ^ j) < (2 ^ 54 - 1) * 2 ^ k :=
  Nat.mul_lt_mul_of_lt_of_le (by omega) (two_pow_mul_mem (a := 0) (Nat.zero_le _) h).2 (Nat.two_pow_pos k)

/-- R271: the bleed factor is finite. -/
theorem fMag_bleedFactor_lt (s : State) : fMag (bleedFactor s) < fInfMag := by
  have hbleed := s.snap.bleed.isLt
  obtain ⟨-, hfin, hunits⟩ := fOfNat_exact (n := s.snap.bleed.toNat) (by omega)
  have hsmall : s.snap.bleed.toNat * fOne < fInfFrom := by
    rw [fOne_eq, fInfFrom]
    exact bleed_scaled_lt hbleed (by decide)
  have hquot : s.snap.bleed.toNat * fOne * fOne < fInfFrom * (256 * fOne) :=
    calc s.snap.bleed.toNat * fOne * fOne < fInfFrom * fOne := Nat.mul_lt_mul_of_pos_right hsmall fOne_pos
      _ ≤ fInfFrom * (256 * fOne) := Nat.mul_le_mul_left _ (Nat.le_mul_of_pos_left _ (by decide))
  have hround := fRound_lt_fInfMag (Nat.mul_pos (by decide : 0 < 256) fOne_pos) hquot
  rw [bleedFactor, fDiv_finite hfin (by decide) (by decide), hunits, fUnits_fMag_f256, fMag_fMk _ _ (lt_signBit hround)]
  exact hround

/-- A share of a zero error, by finite weights, is a zero. -/
theorem fMag_share_zero {e bleed : F64} {wt : Int} {div : Nat} (he : fMag e = 0) (hbleed : fMag bleed < fInfMag)
    (hwt : wt.natAbs ≤ 2 ^ 53) (hdiv0 : 0 < div) (hdiv : div ≤ 2 ^ 53) :
    fMag (fDiv (fMul (fMul e bleed) (fOfInt wt)) (fOfNat div)) = 0 := by
  obtain ⟨-, hfin, hunits⟩ := fOfNat_exact hdiv
  have hmag : fMag (fOfNat div) ≠ 0 := fun h0 => by
    rw [h0] at hunits
    exact (Nat.mul_pos hdiv0 fOne_pos).ne hunits
  exact fMag_fDiv_zero (fMag_fMul_zero (fMag_fMul_zero he hbleed) (fMag_fOfInt_lt hwt)) hfin hmag

/-! ### The loop over a white accumulator -/

/-- The accumulator is white inside the buffer. -/
def WhiteAcc (width height : Nat) (acc : Nat → Nat → F64) : Prop := ∀ x y, x < width → y < height → acc x y = f255

/-- The error at a white element is shared out in zeros. -/
def SharesZeros (shares : Byte → F64 → List (Int × Int × F64)) : Prop :=
  ∀ i, ∀ sh ∈ shares i (fSub f255 (fOfNat (255 : Byte).toNat)), fMag sh.2.2 = 0

theorem fAdd_f255_zero {z : F64} (h : fMag z = 0) : fAdd f255 z = f255 := fAdd_zero_right (by decide) (by decide) h

theorem WhiteAcc.spread {width height : Nat} {acc : Nat → Nat → F64} (h : WhiteAcc width height acc) (x y : Nat)
    {sh : Int × Int × F64} (hsh : fMag sh.2.2 = 0) :
    WhiteAcc width height (Machine.spread width height x y acc sh) := by
  intro x' y' hx hy
  unfold Machine.spread
  split
  case isTrue hin =>
    unfold atPlace
    split
    · rw [h _ _ (by omega) (by omega), fAdd_f255_zero hsh]
    · exact h x' y' hx hy
  case isFalse => exact h x' y' hx hy

theorem WhiteAcc.spreads {width height : Nat} (x y : Nat) (shs : List (Int × Int × F64))
    (hshs : ∀ sh ∈ shs, fMag sh.2.2 = 0) {acc : Nat → Nat → F64} (h : WhiteAcc width height acc) :
    WhiteAcc width height (shs.foldl (Machine.spread width height x y) acc) := by
  induction shs generalizing acc with
  | nil => exact h
  | cons sh shs ih =>
    exact ih (fun s hs => hshs s (List.mem_cons_of_mem _ hs)) (h.spread x y (hshs sh List.mem_cons_self))

section
variable {shares : Byte → F64 → List (Int × Int × F64)} (tbuf : Nat → Nat → Byte) {width height : Nat}

theorem diffuseAt_of_white {st : (Nat → Nat → Byte) × (Nat → Nat → F64)} {q : Nat × Nat}
    (hold : st.2 q.1 q.2 = f255) : diffuseAt shares tbuf width height st q = (atPlace st.1 q.1 q.2 255,
      (shares (tbuf q.1 q.2) (fSub f255 (fOfNat (255 : Byte).toNat))).foldl (spread width height q.1 q.2) st.2) := by
  simp only [diffuseAt, hold, onOff_f255]

/-- The loop over places of a white buffer: it sets them white, and the accumulator stays white. -/
theorem foldl_diffuseAt_white (hshares : SharesZeros shares) (ps : List (Nat × Nat))
    (hps : ∀ p ∈ ps, p.1 < width ∧ p.2 < height) (st : (Nat → Nat → Byte) × (Nat → Nat → F64))
    (h : WhiteAcc width height st.2) {p : Nat × Nat} (hp : p ∈ ps ∨ st.1 p.1 p.2 = 255) :
    (ps.foldl (diffuseAt shares tbuf width height) st).1 p.1 p.2 = 255 := by
  induction ps generalizing st with
  | nil => exact hp.resolve_left (List.not_mem_nil)
  | cons q ps ih =>
    obtain ⟨hx, hy⟩ := hps q List.mem_cons_self
    have hold := h q.1 q.2 hx hy
    rw [List.foldl_cons, diffuseAt_of_white tbuf hold]
    refine ih (fun p hp => hps p (List.mem_cons_of_mem _ hp)) _ (h.spreads _ _ _ (hshares _)) ?_
    by_cases hpq : p = q
    · exact .inr (hpq ▸ atPlace_self _ _ _ _)
    · refine hp.imp (fun hmem => (List.mem_cons.1 hmem).resolve_left hpq) fun hset => ?_
      exact (atPlace_of_ne _ _ fun heq => hpq (Prod.ext heq.1 heq.2)).trans hset

theorem mem_raster {p : Nat × Nat} : p ∈ raster width height ↔ p.1 < width ∧ p.2 < height := by
  simp [raster, Prod.ext_iff, and_comm]

/-- A diffuser whose shares of no error are zeros leaves a white buffer white. -/
theorem diffused_white (hshares : SharesZeros shares) (hwhite : ∀ x y, x < width → y < height → tbuf x y = 255)
    {x y : Nat} (hx : x < width) (hy : y < height) : diffused shares tbuf width height x y = 255 := by
  refine foldl_diffuseAt_white tbuf hshares (raster width height) (fun p hp => mem_raster.1 hp) _ ?_ (p := (x, y))
    (.inl (mem_raster.2 ⟨hx, hy⟩))
  intro x' y' hx' hy'
  show fOfNat (tbuf x' y').toNat = f255
  rw [hwhite x' y' hx' hy', f255_eq]
  rfl

end

theorem sharesZeros_tapShares {div : Nat} (hdiv0 : 0 < div) (hdiv : div ≤ 2 ^ 53) {taps : List Tap}
    (htaps : ∀ tap ∈ taps, tap.wt.natAbs ≤ 2 ^ 53) {bleed : F64} (hbleed : fMag bleed < fInfMag) :
    SharesZeros (tapShares div (tapTriples taps) bleed) := by
  intro i sh hsh
  unfold tapShares tapTriples at hsh
  rw [List.map_map] at hsh
  obtain ⟨tap, hmem, rfl⟩ := List.mem_map.1 hsh
  exact fMag_share_zero fMag_white_error hbleed (htaps tap hmem) hdiv0 hdiv

theorem mbuf_ditherResult (w : Word) (m : List (List Byte)) (g : Word) (s : State) :
    (ditherResult w m g s).bufs.mbuf = m := by
  unfold ditherResult
  split <;> rfl

theorem exec_kernel_white {i : Instr} {div : Nat} {taps : List Tap} {s : State} {w : Word} {r : Nat}
    (hexec : exec i s = runKernel ⟨div, taps⟩ s) (hq : Quiet s) (hp : s.phase = .run w .dither r)
    (hdiv0 : 0 < div) (hdiv : div ≤ 2 ^ 53) (htaps : ∀ tap ∈ taps, tap.wt.natAbs ≤ 2 ^ 53)
    (hwhite : ∀ x y, x < workW s → y < workH s → px s.bufs.tbuf x y = 255) :
    ∃ t, exec i s = .next t ∧ t.bufs.mbuf = rows (workW s) (workH s) fun _ _ => 255 := by
  have hzeros := sharesZeros_tapShares hdiv0 hdiv htaps (fMag_bleedFactor_lt s)
  refine ⟨_, exec_kernel hexec hq hp, ?_⟩
  rw [mbuf_ditherResult]
  exact rows_congr fun x y hx hy => diffused_white (px s.bufs.tbuf) hzeros hwhite hx hy

/-- Settles O35: each style is the loop with its taps, and no error is ever shared out. -/
theorem allWhiteStaysWhite : Obligations.AllWhiteStaysWhite := by
  intro i s w row hq hp hi htaps hwhite
  simp only [List.mem_cons, List.not_mem_nil, or_false] at hi
  rcases hi with rfl | rfl | rfl | rfl | rfl | rfl | rfl | rfl
  all_goals exact exec_kernel_white rfl hq hp (by decide) (by decide) htaps hwhite

end Sys2Proof.Machine
end

section
/-! PROOFS. Where a step stops without a next state (20_memory.md section 3): nothing an engine action does is refused
but the launch of a command over a device region. -/

namespace Sys2Proof.Machine

/-! ### Actions that are not refused -/

/-- The action goes on, ends in a next state, or ends with the fault. -/
def Flow.Unrefused : Flow → Prop
  | .ended (.refused _) => False
  | _ => True

theorem unrefused_on (s : State) : (Flow.on s).Unrefused := trivial

theorem unrefused_next (s : State) : (Flow.ended (.next s)).Unrefused := trivial

theorem unrefused_andThen {f : Flow} {g : State → Flow} (hf : f.Unrefused) (hg : ∀ s, (g s).Unrefused) :
    (f.andThen g).Unrefused := by
  cases f with
  | on s => exact hg s
  | ended o => exact hf

theorem Flow.Unrefused.out_ne {f : Flow} (h : f.Unrefused) (r : Refusal) : f.out ≠ .refused r := by
  cases f with
  | on s => intro he; cases he
  | ended o =>
    rintro rfl
    exact h

theorem land_unrefused (ws : List PortWrite) (s : State) : (land ws s).Unrefused := by
  unfold land
  generalize s.script = l
  induction l generalizing s with
  | nil => exact unrefused_on _
  | cons i l ih =>
    cases i with
    | pass | waitIdle => exact unrefused_on _
    | resetOn n torn => exact unrefused_next _
    | write | read | memWrite | memRead | resetOff => exact ih _

theorem inTurn_unrefused (fs : List (State → State)) (s : State) : (inTurn fs s).Unrefused := by
  induction fs generalizing s with
  | nil => exact unrefused_on s
  | cons f fs ih => exact unrefused_andThen (land_unrefused [] _) ih

theorem finish_unrefused (s : State) : (finish s).Unrefused := by
  unfold finish
  split
  · exact land_unrefused [] _
  · exact unrefused_on _

theorem complete_unrefused (s : State) : (complete s).Unrefused :=
  unrefused_andThen (inTurn_unrefused _ s) finish_unrefused

theorem raiseError_unrefused (k : ErrKind) (a : Word) (s : State) : (raiseError k a s).Unrefused :=
  unrefused_andThen (unrefused_andThen (inTurn_unrefused _ s) finish_unrefused) unrefused_next

theorem abandon_unrefused (s : State) : (abandon s).Unrefused :=
  unrefused_andThen (unrefused_andThen (inTurn_unrefused _ s) finish_unrefused) unrefused_next

theorem boundary_unrefused (s : State) : (boundary s).Unrefused := by
  unfold boundary
  split
  · exact abandon_unrefused s
  · exact unrefused_on s

theorem betweenStages_unrefused (s : State) : (betweenStages s).Unrefused :=
  unrefused_andThen (land_unrefused [] s) boundary_unrefused

theorem thenComplete_unrefused {f : Flow} (hf : f.Unrefused) : (thenComplete f).Unrefused :=
  unrefused_andThen (unrefused_andThen hf (land_unrefused [])) complete_unrefused

/-! ### Rows -/

theorem performWrites_unrefused (ws : List PortWrite) (s : State) : (performWrites ws s).Unrefused := by
  induction ws generalizing s with
  | nil => exact unrefused_on s
  | cons w ws ih =>
    unfold performWrites
    split_ifs
    · trivial
    · exact raiseError_unrefused _ _ s
    · exact unrefused_andThen (land_unrefused ws _) ih

theorem sampleRow_unrefused (as : List Nat) (row : List Byte) (s : State) : (sampleRow as row s).Unrefused := by
  induction as generalizing row s with
  | nil => exact unrefused_on _
  | cons a as ih =>
    unfold sampleRow
    split_ifs
    · trivial
    · exact raiseError_unrefused _ _ s
    · exact unrefused_andThen (land_unrefused [] _) (ih _)

theorem rowLoop_unrefused (stage : Stage) (writes : Nat → State → List PortWrite) {body : Nat → State → Flow}
    (hb : ∀ y s, (body y s).Unrefused) (ys : List Nat) (s : State) :
    (rowLoop stage writes body ys s).Unrefused := by
  induction ys generalizing s with
  | nil => exact land_unrefused [] s
  | cons y ys ih =>
    refine unrefused_andThen (unrefused_andThen (land_unrefused _ _) (hb y)) fun s1 =>
      unrefused_andThen (land_unrefused [] s1) fun s2 => ?_
    cases ys with
    | nil => exact unrefused_on s2
    | cons y' ys => exact unrefused_andThen (boundary_unrefused s2) ih

theorem pureRows_unrefused (stage : Stage) (n : Nat) (row : Nat → State → State) (s : State) :
    (pureRows stage n row s).Unrefused :=
  rowLoop_unrefused stage noWrites (fun _ _ => unrefused_on _) _ s

theorem writingRows_unrefused (stage : Stage) (n : Nat) (writes : Nat → State → List PortWrite) (s : State) :
    (writingRows stage n writes s).Unrefused :=
  rowLoop_unrefused stage writes (fun _ _ => performWrites_unrefused _ _) _ s

/-! ### Stages -/

theorem stageSample_unrefused (s : State) : (stageSample s).Unrefused :=
  unrefused_andThen (unrefused_andThen (land_unrefused [] _) fun s1 =>
    rowLoop_unrefused .sample noWrites (fun _ _ => sampleRow_unrefused _ _ _) _ (clearForSample s1)) fun _ => trivial

theorem zeroAreaSample_unrefused (s : State) : (zeroAreaSample s).Unrefused :=
  unrefused_andThen (land_unrefused [] _) fun _ => trivial

theorem stageTonemap_unrefused (s : State) : (stageTonemap s).Unrefused :=
  unrefused_andThen (unrefused_andThen (land_unrefused [] _) fun _ => pureRows_unrefused _ _ _ _) fun _ => trivial

theorem stageDepth_unrefused (s : State) : (stageDepth s).Unrefused :=
  unrefused_andThen (pureRows_unrefused _ _ _ _) fun _ => trivial

theorem stagePalette_unrefused (s : State) : (stagePalette s).Unrefused :=
  unrefused_andThen (pureRows_unrefused _ _ _ _) fun _ => trivial

theorem frameHead_unrefused (s : State) : (frameHead s).Unrefused :=
  unrefused_andThen (unrefused_andThen (unrefused_andThen (unrefused_andThen (stageSample_unrefused s)
    betweenStages_unrefused) stageTonemap_unrefused) betweenStages_unrefused) fun _ => trivial

theorem frameTail_unrefused (s : State) : (frameTail s).Unrefused :=
  thenComplete_unrefused (unrefused_andThen (unrefused_andThen (unrefused_andThen (unrefused_andThen
    (stageDepth_unrefused s) betweenStages_unrefused) stagePalette_unrefused) betweenStages_unrefused)
    fun s => writingRows_unrefused _ _ _ s)

theorem endDither_unrefused (s : State) : (endDither s).Unrefused := by
  unfold endDither
  split
  · exact unrefused_andThen (betweenStages_unrefused _) fun _ => trivial
  · exact thenComplete_unrefused trivial

theorem runStyle_ne_refused (setUp : State → State) (row : Nat → State → List Byte × State) (s : State)
    (r : Refusal) : runStyle setUp row s ≠ .refused r :=
  (unrefused_andThen (pureRows_unrefused _ _ _ _) endDither_unrefused).out_ne r

/-! ### Commands -/

/-- What a command that starts from acceptance is: its checks report no BUS, the regions of its launch are those of the
table, and nothing else refuses it. -/
structure Launches (i : Instr) (s : State) (w : Word) (checks : State → List Check) (regions : State → List Region)
    (body : State → Flow) : Prop where
  exec_eq : exec i s = runCommand w checks regions body s
  kinds : ∀ c ∈ checks (accept w s), c.kind ≠ .bus
  regions_eq : regions (accept w s) = launchRegions i s
  body_unrefused : ∀ t, (body t).Unrefused

theorem launches_dump {i : Instr} {s : State} {w : Word} {valid : Valid → Bool} {e : Nat}
    {elem : State → Nat → Nat → List Byte} (hexec : exec i s = runDump w valid e elem s)
    (hregions : launchRegions i s = [⟨s.cfg.dstBase.toNat, e * workW s * workH s⟩]) :
    ∃ w checks regions body, Launches i s w checks regions body := by
  refine ⟨_, _, _, _, hexec, ?_, hregions.symm, fun t => thenComplete_unrefused (writingRows_unrefused _ _ _ t)⟩
  simp [checkSeq, checkRange]

theorem launches_of_isCommand {i : Instr} {s : State} (hi : isCommand i = true) (hm : i = .runFrame → NotMidFrame s) :
    ∃ w checks regions body, Launches i s w checks regions body := by
  cases i with
  | nop =>
    exact ⟨0x00, fun _ => [], noRegions, fun s => thenComplete (.on s), rfl, by simp, rfl,
      fun t => thenComplete_unrefused (unrefused_on t)⟩
  | illegalCmd w =>
    exact ⟨w, fun _ => [⟨true, .illegalCmd, 0⟩], noRegions, .on, rfl, by simp, rfl, unrefused_on⟩
  | buildLut => exact ⟨_, _, _, _, rfl, by simp [checkContrast], rfl, fun _ => thenComplete_unrefused trivial⟩
  | dither => exact ⟨_, _, _, _, rfl, by simp [checkSeq, checkPscale], rfl, fun _ => trivial⟩
  | tonemap =>
    exact ⟨_, _, _, _, rfl, by simp [checkSeq, checkContrast], rfl,
      fun t => thenComplete_unrefused (stageTonemap_unrefused t)⟩
  | depth =>
    exact ⟨_, _, _, _, rfl, by simp [checkSeq], rfl, fun t => thenComplete_unrefused (stageDepth_unrefused t)⟩
  | palette =>
    exact ⟨_, _, _, _, rfl, by simp [checkSeq, checkPalette], rfl,
      fun t => thenComplete_unrefused (stagePalette_unrefused t)⟩
  | upscale =>
    exact ⟨_, _, _, _, rfl, by simp [checkSeq, checkRange], rfl,
      fun t => thenComplete_unrefused (writingRows_unrefused _ _ _ t)⟩
  | dumpIbuf | dumpTbuf | dumpMbuf | dumpDbuf =>
    exact launches_dump rfl (by rw [Nat.one_mul]; rfl)
  | dumpCbuf => exact launches_dump rfl rfl
  | sample =>
    refine ⟨_, _, _, _, rfl, ?_, if_congr (zeroArea_iff _) rfl rfl, fun t => thenComplete_unrefused ?_⟩
    · split <;> simp [sampleChecks, checkScale, checkDim, checkRange]
    · split
      · exact zeroAreaSample_unrefused t
      · exact stageSample_unrefused t
  | runFrame =>
    refine ⟨_, _, _, _, execRunFrame_of_notMidFrame (hm rfl), ?_, if_congr (zeroArea_iff _) rfl rfl, fun t => ?_⟩
    · split <;>
        simp [frameChecks, sampleChecks, checkScale, checkDim, checkRange, checkContrast, checkPscale, checkPalette]
    · split
      · exact thenComplete_unrefused (zeroAreaSample_unrefused t)
      · exact frameHead_unrefused t
  | edFloydSteinberg | edAtkinson | edJjn | edStucki | edBurkes | edSierra | edSierra2 | edSierraLite | ordBayer
  | ordKnoll | linesH | linesV | linesD | noiseBlue | noiseWhite | noiseStipple | noiseVoronoi | waveSinX | waveSinY
  | waveSinR | waveSqrX | waveSqrY | waveSqrR | patChecker | patGrid | patRandom | patGradient | vcOstromoukhov
  | sfcRiemersma | passthrough => cases hi

end Sys2Proof.Machine
end

section
/-! PROOFS. How a command ends (70_reset_and_hazards.md section 4): within three steps of the model, and refused exactly
where its launch meets a device region. -/

namespace Sys2Proof.Machine

/-! ### The refusal of a launch -/

theorem meetsDevice_iff (s : State) (r : Region) :
    meetsDevice s r = true ↔ ∃ a, inRegion r a ∧ ∃ d ∈ s.plat.devices, inRegion d a := by
  simp only [meetsDevice, List.any_eq_true, Bool.and_eq_true, decide_eq_true_eq, inRegion]
  constructor
  · rintro ⟨d, hd, ⟨⟨hr, hdlen⟩, hlo⟩, hhi⟩
    exact ⟨max r.base d.base, by omega, d, hd, by omega⟩
  · rintro ⟨a, hr, d, hd, ha⟩
    exact ⟨d, hd, by omega⟩

theorem any_meetsDevice_iff (s : State) (rs : List Region) :
    rs.any (meetsDevice s) = true ↔ ∃ a, (∃ r ∈ rs, inRegion r a) ∧ ∃ d ∈ s.plat.devices, inRegion d a := by
  simp only [List.any_eq_true, meetsDevice_iff]
  constructor
  · rintro ⟨r, hr, a, ha, hd⟩
    exact ⟨a, ⟨r, hr, ha⟩, hd⟩
  · rintro ⟨a, ⟨r, hr, ha⟩, hd⟩
    exact ⟨r, hr, a, ha, hd⟩

/-- A command is refused only for a device region, whatever lands on it. -/
theorem runCommand_refused {w : Word} {checks : State → List Check} {regions : State → List Region}
    {body : State → Flow} {s : State} {r : Refusal} (hbody : ∀ t, (body t).Unrefused)
    (h : runCommand w checks regions body s = .refused r) : r = .deviceRegion := by
  unfold runCommand at h
  have hland := land_unrefused [] (accept w s)
  cases hl : land [] (accept w s) with
  | ended o =>
    rw [hl] at hland h
    exact absurd h (hland.out_ne r)
  | on s1 =>
    rw [hl, andThen_on] at h
    split at h
    · exact absurd h ((raiseError_unrefused _ _ s1).out_ne r)
    · split at h
      · cases h
        rfl
      · exact absurd h ((hbody s1).out_ne r)

theorem eq_bus_of_errCode {k : ErrKind} (h : errCode k = 0 ∨ errCode k = 9) : k = .bus := by
  revert h
  cases k <;> decide

/-- Where the table has no error, no check of the command fails: it would report its code, and not BUS. -/
theorem Launches.firstFail_eq_none {i : Instr} {s : State} {w : Word} {checks : State → List Check}
    {regions : State → List Region} {body : State → Flow} (h : Launches i s w checks regions body)
    (htable : FollowsTable i s) (hs : s.script = []) (hnone : tableError i s = none) :
    firstFail (checks (accept w s)) = none := by
  cases hc : firstFail (checks (accept w s)) with
  | none => rfl
  | some c =>
    have hexec := runCommand_fails w checks regions body s hs c hc
    have hcode : NoneOrBus (failed c.kind c.addr (accept w s)) := htable.2 hnone _ (h.exec_eq.trans hexec)
    exact absurd (eq_bus_of_errCode hcode) (h.kinds c (firstFail_some hc).1)

/-- 20_memory.md section 3: where a launch is refused. -/
theorem Launches.refused_iff {i : Instr} {s : State} {w : Word} {checks : State → List Check}
    {regions : State → List Region} {body : State → Flow} (h : Launches i s w checks regions body)
    (htable : FollowsTable i s) (hs : s.script = []) : exec i s = .refused .deviceRegion ↔
      tableError i s = none ∧ (launchRegions i s).any (meetsDevice s) = true := by
  constructor
  · intro hrefused
    have hnone : tableError i s = none := by
      cases he : tableError i s with
      | none => rfl
      | some ka => cases (htable.1 ka.1 ka.2 he).symm.trans hrefused
    refine ⟨hnone, ?_⟩
    by_contra hmeets
    have hruns := runCommand_runs w checks regions body s hs (h.firstFail_eq_none htable hs hnone)
      (by rw [h.regions_eq]; exact Bool.not_eq_true _ ▸ hmeets)
    exact (h.body_unrefused _).out_ne _ (hruns.symm.trans (h.exec_eq.symm.trans hrefused))
  · rintro ⟨hnone, hmeets⟩
    have hregions : (regions (accept w s)).any (meetsDevice (accept w s)) = true := by
      rw [h.regions_eq]
      exact hmeets
    rw [h.exec_eq, runCommand_quiet w checks regions body s hs, h.firstFail_eq_none htable hs hnone]
    exact if_pos hregions

/-! ### A step that ends as it may -/

/-- The result is a next state with `Q`, the fault, or the refusal of a launch over a device region. -/
def EndsIn (Q : State → Prop) (o : Result) : Prop :=
  (∃ t, o = .next t ∧ Q t) ∨ o = .fault .outsideFrameMemory ∨ o = .refused .deviceRegion

theorem endsIn_of {Q : State → Prop} {o : Result} (hnext : ∀ t, o = .next t → Q t)
    (hrefused : ∀ r, o = .refused r → r = .deviceRegion) : EndsIn Q o := by
  cases o with
  | next t => exact .inl ⟨t, rfl, hnext t rfl⟩
  | fault r =>
    cases r
    exact .inr (.inl rfl)
  | refused r =>
    obtain rfl := hrefused r rfl
    exact .inr (.inr rfl)

theorem endsIn_steps_succ {P Q : State → Prop} {k : Nat} {s : State} (h : EndsIn P (step s))
    (hP : ∀ t, P t → EndsIn Q (steps k t)) : EndsIn Q (steps (k + 1) s) := by
  rw [steps]
  rcases h with ⟨t, ht, hp⟩ | hf | hr
  · rw [ht]
    exact hP t hp
  · rw [hf]
    exact .inr (.inl rfl)
  · rw [hr]
    exact .inr (.inr rfl)

/-! ### What each step leaves where nothing lands -/

/-- Undisturbed, and a command runs. -/
def QuietRun (s : State) : Prop := Quiet s ∧ ∃ w, RunsWord w s

/-- An undisturbed command ends with the engine IDLE. -/
theorem bodies_quietRun {Q : State → Prop} (hQ : ∀ t, Quiet t → t.phase = .idle → Q t) : Bodies QuietRun Q where
  land ws s h := by
    rw [land_quiet ws s h.1.1]
    exact h
  abandon s h := by
    rw [abandon_quiet s h.1.1]
    exact hQ _ ⟨h.1.1, rfl⟩ (if_neg (by simp [h.1.2, setPreempt, invalidate, writesPerformed]))
  row stage row s h := ⟨h.1, h.2.imp fun w hw => hw.atRow stage row⟩
  inner s _ _ _ h := h
  fails k a s h := by
    rw [raiseError_quiet k a s h.1.1]
    exact hQ _ ⟨h.1.1, rfl⟩ (if_neg (by simp [h.1.2, setErr, setErrAddr, setErrCode, writesPerformed]))
  completes s h := by
    rw [complete_quiet s h.1.1]
    exact hQ _ ⟨h.1.1, rfl⟩ (if_neg (by simp [h.1.2, setDone, writesPerformed]))

/-- The engine is IDLE. -/
def Idle (s : State) : Prop := Quiet s ∧ s.phase = .idle

/-- The engine is IDLE, or a RUN_FRAME is past its dither stage. -/
def AtTail (s : State) : Prop :=
  Quiet s ∧ (s.phase = .idle ∨ ∃ w row, s.phase = .run w .depth row ∧ decodeCmd w = .runFrame)

/-- The engine is IDLE, or a dither stage is to be dispatched. -/
def AtDispatch (s : State) : Prop := Quiet s ∧ (s.phase = .idle ∨ ∃ w row, s.phase = .run w .dither row)

theorem RunsWord.phase_atRow {w : Word} {s : State} (h : RunsWord w s) (stage : Stage) (row : Nat) :
    (Machine.atRow stage row s).phase = .run w stage row := by
  obtain ⟨st, r, hp⟩ := h
  rw [atRow_run stage row s w st r hp]

theorem quietRun_engineWrite (a : Nat) (v : Byte) (s : State) (h : QuietRun s) : QuietRun (engineWrite a v s) := by
  obtain ⟨b, n, u, e⟩ := engineWrite_state a v s
  rw [e]
  exact h

/-- A command, from acceptance. -/
theorem exec_command_ends {i : Instr} {s : State} (hi : isCommand i = true) (hm : i = .runFrame → NotMidFrame s)
    (hq : Quiet s) : EndsIn AtDispatch (exec i s) := by
  refine endsIn_of (fun t ht => ?_) fun r hr => ?_
  · refine (bodies_quietRun (Q := AtDispatch) fun t hq hp => ⟨hq, .inl hp⟩).exec (fun _ _ h => h) (fun _ h _ => h)
      (fun s1 h1 => ⟨h1.1, .inr ?_⟩) (fun _ _ a v s _ => quietRun_engineWrite a v s) hi hm
      (fun w => ⟨hq, w, runsWord_accept w s⟩) ht
    obtain ⟨w, hw⟩ := h1.2
    exact ⟨w, 0, RunsWord.phase_atRow (s := startDither s1) hw .dither 0⟩
  · obtain ⟨w, checks, regions, body, h⟩ := launches_of_isCommand (s := s) hi hm
    exact runCommand_refused h.body_unrefused (h.exec_eq.symm.trans hr)

/-- The stages of a RUN_FRAME after its dither stage. -/
theorem frameTail_ends {s : State} {w : Word} {row : Nat} (hp : s.phase = .run w .depth row) (hq : Quiet s) :
    EndsIn Idle (frameTail s).out := by
  refine endsIn_of (fun t ht => ?_) fun r hr => absurd hr ((frameTail_unrefused s).out_ne r)
  exact sat_out ((bodies_quietRun (Q := Idle) fun t hq hp => ⟨hq, hp⟩).frameTail
    (writesKeep_of_engineWrite (fun a v s _ => quietRun_engineWrite a v s) _ _) ⟨hq, w, .depth, row, hp⟩)
    (fun _ h => h) ht

/-- A dither variant. -/
theorem exec_style_ends {i : Instr} {s : State} {w : Word} {row : Nat} (hi : isCommand i = false)
    (hp : s.phase = .run w .dither row) (hq : Quiet s) : EndsIn AtTail (exec i s) := by
  obtain ⟨setUp, rowOf, hv, he⟩ := runsVariant_of_not_isCommand hi s
  rw [he]
  refine endsIn_of (fun t ht => ?_) fun r hr => absurd hr (runStyle_ne_refused _ _ _ r)
  have B : Bodies QuietRun AtTail := bodies_quietRun fun t hq hp => ⟨hq, .inl hp⟩
  refine runStyle_passes (P := fun _ => QuietRun) (P1 := QuietRun) hv (fun _ => B.toPasses) B.toPasses
    (fun _ => ⟨hq, w, .dither, row, hp⟩) (fun _ _ _ _ h _ => h) (fun _ h => h) B.completes
    (fun s1 h1 hframe => ⟨h1.1, .inr ?_⟩) ht
  obtain ⟨w1, hw⟩ := h1.2
  refine ⟨w1, 0, hw.phase_atRow .depth 0, ?_⟩
  rw [runsFrame, hw.runWord] at hframe
  exact of_decide_eq_true hframe

/-! ### Steps -/

theorem step_of_idle {s : State} (h : Idle s) : step s = .next s := by
  unfold step
  rw [h.2, h.1.1]

theorem steps_of_idle (k : Nat) {s : State} (h : Idle s) : EndsIn Idle (steps k s) := by
  induction k with
  | zero => exact .inl ⟨s, rfl, h⟩
  | succ k ih => rwa [steps, step_of_idle h]

theorem steps_of_atTail (k : Nat) {s : State} (h : AtTail s) : EndsIn Idle (steps (k + 1) s) := by
  obtain ⟨hq, hidle | ⟨w, row, hp, hw⟩⟩ := h
  · exact steps_of_idle (k + 1) ⟨hq, hidle⟩
  · refine endsIn_steps_succ ?_ fun t ht => steps_of_idle k ht
    have hdecode : decode (.cmd w) = .runFrame := hw
    rw [step_run hp (by simp), hdecode, exec, execRunFrame_of_midFrame hp]
    exact frameTail_ends hp hq

theorem steps_of_atDispatch (k : Nat) {s : State} (h : AtDispatch s) : EndsIn Idle (steps (k + 2) s) := by
  obtain ⟨hq, hidle | ⟨w, row, hp⟩⟩ := h
  · exact steps_of_idle (k + 2) ⟨hq, hidle⟩
  · refine endsIn_steps_succ ?_ fun t ht => steps_of_atTail k ht
    rw [step_dither hp]
    exact exec_style_ends (isCommand_decode_style _) hp hq

/-- What the engine finds decides which of the three steps comes first. -/
theorem steps_three_ends {s : State} (hq : Quiet s) : EndsIn Idle (steps 3 s) := by
  by_cases hidle : s.phase = .idle
  · exact steps_of_idle 3 ⟨hq, hidle⟩
  obtain ⟨e, he⟩ : ∃ e, fetch s = some e := Option.isSome_iff_exists.1 (by
    unfold fetch
    split <;> simp_all)
  rcases fetch_cases he with ⟨hcmd, hm⟩ | ⟨-, w, row, hp, hw⟩ | ⟨-, w, row, hp⟩
  · refine endsIn_steps_succ ?_ fun t ht => steps_of_atDispatch 0 ht
    rw [step_of_busy hidle, runFetched_of_fetch he]
    exact exec_command_ends hcmd hm hq
  · exact steps_of_atTail 2 ⟨hq, .inr ⟨w, row, hp, hw⟩⟩
  · exact steps_of_atDispatch 1 ⟨hq, .inr ⟨w, row, hp⟩⟩

/-- Settles O58: a command, its variant and the rest of a RUN_FRAME are each one step; a launch is the only action that
is refused. -/
theorem commandEnds : Obligations.CommandEnds := by
  refine ⟨fun s hq => (steps_three_ends hq).imp_left fun ⟨t, ht, hidle⟩ => ⟨t, ht, hidle.2⟩, fun i s hi hs hm => ?_⟩
  obtain ⟨w, checks, regions, body, h⟩ := launches_of_isCommand (s := s) hi fun _ => hm
  rw [h.refused_iff (followsTable_of_isCommand hi hs hm) hs, any_meetsDevice_iff]

end Sys2Proof.Machine
end
